-- ==== Sys2Proof/Config.lean ====
section
/-! DEFINITION. The parameters of the unit (00_scope.md R6, R7): the fixed ones as constants, the
OPEN ones (BASE, LATENCY) as constants with no body. -/

namespace Sys2Proof.Config

/-- The modulus of every operation (R6: fixed at 26; another value is refused, log 12). -/
abbrev MOD : Int := 26

/-- The size in bytes of the register window (R7, 20_memory.md R42). -/
def windowBytes : Nat := 128

/-- OPEN (R7, R55; log 2): which 128-byte slot of the platform's address space holds the window. -/
opaque baseSlot : Nat

/-- The byte address of the window, "aligned to 128 bytes" (R7, R55). -/
def BASE : Nat := baseSlot * windowBytes

/-- OPEN (R7, R119; log 3): cycles from a CMD write to its completion. "No rule of this spec depends
on it" (R119), so nothing in the model reads it. -/
opaque LATENCY : Nat

end Sys2Proof.Config
end

