-- ==== Sys2Proof/Syntax.lean ====
section
/-! DEFINITION. The five commands of the unit, one constructor per row of the opcode table
(30_encoding.md R63). A command has no immediate and no register field (R62), so no constructor
has an argument. -/

namespace Sys2Proof

/-- The commands of 30_encoding.md R63. -/
inductive Instr where
  /-- NOP, 42_system.md R89. -/
  | nop
  /-- SINV, 40_scalar.md R71. -/
  | sinv
  /-- DET, 41_matrix.md R75. -/
  | det
  /-- MINV, 41_matrix.md R78. -/
  | minv
  /-- MVMUL, 41_matrix.md R84. -/
  | mvmul
deriving DecidableEq, Repr

end Sys2Proof
end

