-- ==== Sys2Proof/Word.lean ====
section
/-! DEFINITION. The word, byte and field types of the MX26 unit (00_scope.md R7, R8). -/

namespace Sys2Proof

/-- A 32-bit register or bus word (R7: W = 32; bit 0 is the least significant, R8). -/
abbrev Word := BitVec 32

/-- One byte lane of the bus (20_memory.md R47). -/
abbrev Byte := BitVec 8

/-- The four-bit field type of OPC (30_encoding.md R60) and STATUS.LASTOP (10_state.md R23). -/
abbrev Nibble := BitVec 4

end Sys2Proof
end

