-- ==== Sys2Proof/Decode.lean ====
section
/-! DEFINITION. The command decoder (30_encoding.md R60, R61, R65), the byte lanes a word is carried
on (20_memory.md R47), the encoder, and the opcode table with its own decoder (R63, R64, R70). -/

namespace Sys2Proof

/-- The OPC field, bits 3:0 of a command word (R60). -/
def opcField (w : Word) : Nibble := w.extractLsb' 0 4

/-- The RSV field, bits 31:4 of a command word (R60). -/
def rsvField (w : Word) : BitVec 28 := w.extractLsb' 4 28

/-- Why bytes are no command. The unit does not trap on a rejected word: it executes
IllegalCommand (R65, 42_system.md R90). -/
inductive DecodeError where
  /-- A bit of RSV is set (R61: "a word with a legal OPC but any RSV bit set is illegal"). -/
  | reservedBitsSet
  /-- RSV is 0 and OPC is in 0x5 to 0xF (R63, R66). -/
  | reservedOpcode (opc : Nibble)
  /-- The bytes are not one 32-bit word (R59: "A command's length is always one word"). -/
  | notOneWord
deriving DecidableEq, Repr

/-- The operation an OPC selects, none for the reserved ones (R63). -/
def ofOpc (opc : Nibble) : Option Instr :=
  match opc.toNat with
  | 0 => some .nop
  | 1 => some .sinv
  | 2 => some .det
  | 3 => some .minv
  | 4 => some .mvmul
  | _ => none

/-- The decoder of R61: the test covers the whole word, and nothing but the word is needed (R59). -/
def decode (w : Word) : Except DecodeError Instr :=
  if rsvField w ≠ 0 then .error .reservedBitsSet
  else
    match ofOpc (opcField w) with
    | some i => .ok i
    | none => .error (.reservedOpcode (opcField w))

/-- The lanes of a bus word, lane 0 first: lane k carries bits 8k+7..8k (R47, little-endian). -/
def lanesOfWord (w : Word) : List Byte :=
  [w.extractLsb' 0 8, w.extractLsb' 8 8, w.extractLsb' 16 8, w.extractLsb' 24 8]

/-- The bus word that byte lanes carry, lane 0 first (R47): lane 0 is the least significant byte. -/
def wordOfLanes : List Byte → Word
  | [] => 0
  | b :: rest => (wordOfLanes rest <<< 8) ||| b.setWidth 32

/-- Decoding from bytes as the bus lays them out: exactly one word (R59), little-endian (R47). -/
def decodeBytes (lanes : List Byte) : Except DecodeError Instr :=
  if lanes.length = 4 then decode (wordOfLanes lanes) else .error .notOneWord

/-- The OPC of a command (R63). -/
def Instr.opc : Instr → Nibble
  | .nop => 0x0
  | .sinv => 0x1
  | .det => 0x2
  | .minv => 0x3
  | .mvmul => 0x4

/-- The command word of a command: RSV = 0 and its OPC (R60, R63). -/
def encode (i : Instr) : Word := (0 : BitVec 28) ++ i.opc

/-- A row of the opcode table (R64, R70). -/
structure OpcodeRow where
  mnemonic : String
  mask : Word
  matchWord : Word
  instr : Instr
deriving DecidableEq, Repr

/-- The opcode table of R63 with the masks of R64, in the table's order. -/
def opcodeTable : List OpcodeRow :=
  [ ⟨"NOP", 0xFFFFFFFF, 0x00000000, .nop⟩,
    ⟨"SINV", 0xFFFFFFFF, 0x00000001, .sinv⟩,
    ⟨"DET", 0xFFFFFFFF, 0x00000002, .det⟩,
    ⟨"MINV", 0xFFFFFFFF, 0x00000003, .minv⟩,
    ⟨"MVMUL", 0xFFFFFFFF, 0x00000004, .mvmul⟩ ]

/-- Whether a row matches a command word (R70: `w & mask == match`). -/
def OpcodeRow.hits (row : OpcodeRow) (w : Word) : Bool := (w &&& row.mask) == row.matchWord

/-- The decoder "built from opcode_table.json alone" (R70). -/
def tableDecode (w : Word) : Option Instr :=
  (opcodeTable.find? (fun row => row.hits w)).map OpcodeRow.instr

/-- The instruction the decoder reads from the bits w of a table row of nbits bits (every bit above
nbits is 0), laid out on the bus lanes. A command is one 32-bit word (R59). -/
def decodeTableWord (nbits w : Nat) : Option Instr :=
  if w % 2 ^ nbits < 2 ^ 32 then
    (decodeBytes (lanesOfWord (BitVec.ofNat 32 (w % 2 ^ nbits)))).toOption
  else none

end Sys2Proof
end

