-- ==== Sys2Proof/Machine/State.lean ====
section
/-! DEFINITION. The state of the machine as plain data: the unit's registers (10_state.md R16, R41),
the level of its reset input (70_reset_and_hazards.md R109), and the host's side of a run
(20_memory.md R58): its coming events and its observation. -/

namespace Sys2Proof.Machine

/-- The STATUS register by its fields (10_state.md R23, R41). The reserved bits 3 and 31:8 have no
storage: they read 0 and are never set (R28). -/
structure Status where
  OK : Bool
  NOINV : Bool
  ILLEGAL : Bool
  LASTOP : Nibble
deriving DecidableEq, Repr

/-- The unit's whole architectural state (10_state.md R16), as the one record of R41. CMD is not a
field, because it holds nothing (R22). -/
structure Registers where
  M00 : Word
  M01 : Word
  M10 : Word
  M11 : Word
  V0 : Word
  V1 : Word
  SA : Word
  STATUS : Status
  RS : Word
  RV0 : Word
  RV1 : Word
  RM00 : Word
  RM01 : Word
  RM10 : Word
  RM11 : Word
deriving DecidableEq, Repr

/-- One access of the host (20_memory.md R43, R44), placed by its byte offset from BASE (R8); an
offset that is negative or 128 and above lies outside the window (log 2, log 4). -/
inductive Access where
  /-- A read of n bytes. -/
  | read (off : Int) (n : Nat)
  /-- A write of as many bytes as there are lanes, lane 0 first (R47). -/
  | write (off : Int) (lanes : List Byte)
deriving DecidableEq, Repr

/-- One event of the outside world at the unit (20_memory.md R57; 60_exceptions.md R108). -/
inductive HostEvent where
  /-- A read or a write on the bus. -/
  | access (a : Access)
  /-- The reset input is driven: true asserts it, false releases it (R109; log 7). -/
  | driveReset (asserted : Bool)
  /-- Reset is asserted while the access is in flight, which R110 forbids the host. -/
  | resetDuring (a : Access)
  /-- Power goes off and comes on again: "the next power-on begins with reset" (R108; log 8). -/
  | powerCycle
deriving DecidableEq, Repr

/-- One entry of the observation (20_memory.md R58). -/
inductive Response where
  /-- The word a read returned. -/
  | word (w : Word)
  /-- The bus error response of a malformed access at this offset (R15, R95). -/
  | busError (off : Nat)
deriving DecidableEq, Repr

/-- The machine: the unit and, for a run, the host's side of it. `pending` and `observed` are the
model's own fields (log 1). -/
structure State where
  /-- The unit's registers (R16). -/
  regs : Registers
  /-- Whether the reset input is asserted: the unit "is either in reset or accepting accesses" (R108). -/
  resetAsserted : Bool
  /-- The host's coming events, oldest first (R58: a finite sequence of host accesses). -/
  pending : List HostEvent
  /-- The observation so far, oldest first (R58). -/
  observed : List Response
deriving DecidableEq, Repr

/-- Why the machine stops with a fault: never. R58: a run "always ends, and never in a fault of the
unit"; the unit takes no traps (R93) and no error is fatal (R103). A bus error is no fault: it is
recorded in the observation and the run goes on (R58, R95). No constructor, nobody raises one (log 11). -/
inductive Fault where
deriving DecidableEq, Repr

/-- Why the model refuses to go on. -/
inductive Refusal where
  /-- Raised by exec for an instruction that has no meaning yet (safe: the run stops). -/
  | notModelled (mnemonic : String)
  /-- Raised by an access while reset is asserted: "A model of a host that breaks the rule must
  refuse that run" (R110). Safe: nothing is assumed of the open outcome (log 5). -/
  | accessDuringReset
  /-- Raised when reset is asserted while an access is in flight (R110). Safe (log 5). -/
  | accessInFlightAtReset
  /-- Raised by an access outside the 128-byte window: "the platform decides what it does" (R95,
  93_implementation_defined.md item 13). Safe (log 4). -/
  | accessOutsideWindow
deriving DecidableEq, Repr

/-- STATUS after reset (10_state.md R37). -/
def Status.reset : Status := { OK := false, NOINV := false, ILLEGAL := false, LASTOP := 0 }

/-- Every register at its reset value 0x00000000 (10_state.md R37, R112). -/
def Registers.reset : Registers :=
  { M00 := 0, M01 := 0, M10 := 0, M11 := 0, V0 := 0, V1 := 0, SA := 0
    STATUS := Status.reset
    RS := 0, RV0 := 0, RV1 := 0, RM00 := 0, RM01 := 0, RM10 := 0, RM11 := 0 }

/-- The machine right after reset is released: registers at their reset values (R109, R112), accepting
accesses at once (R111), the host not having acted yet (log 1). -/
def State.reset : State :=
  { regs := Registers.reset, resetAsserted := false, pending := [], observed := [] }

end Sys2Proof.Machine
end

