-- ==== Sys2Proof/Machine/Flags.lean ====
section
/-! DEFINITION. STATUS: its word (10_state.md R23) and the values the commands give it (R29). STATUS
is written whole by every CMD write and is not sticky (R29). -/

namespace Sys2Proof.Machine

/-- STATUS as the word a host read returns: OK in bit 0, NOINV in bit 1, ILLEGAL in bit 2, LASTOP in
bits 7:4, and 0 elsewhere (R23, R28). -/
def Status.toWord (st : Status) : Word :=
  (0 : BitVec 24) ++ st.LASTOP ++ (0 : BitVec 1) ++ BitVec.ofBool st.ILLEGAL
    ++ BitVec.ofBool st.NOINV ++ BitVec.ofBool st.OK

/-- STATUS after a legal command that succeeds (R24, R27). -/
def Status.success (opc : Nibble) : Status :=
  { OK := true, NOINV := false, ILLEGAL := false, LASTOP := opc }

/-- STATUS after a SINV or MINV whose operand has no inverse (R25, R27). -/
def Status.notInvertible (opc : Nibble) : Status :=
  { OK := false, NOINV := true, ILLEGAL := false, LASTOP := opc }

/-- STATUS after an illegal command word w (R26, R27; 42_system.md R90). -/
def Status.illegalWord (w : Word) : Status :=
  { OK := false, NOINV := false, ILLEGAL := true, LASTOP := opcField w }

end Sys2Proof.Machine
end

