-- ==== Sys2Proof/Machine/Arith.lean ====
section
/-! DEFINITION. The integer arithmetic of the unit (00_scope.md R9 to R14): everything is exact over
the integers (R10), and only `remT` and `norm26` reduce. -/

namespace Sys2Proof.Machine

open Sys2Proof.Config

/-- `sint32(w)`: the word read as two's complement (R9). -/
def sint32 (w : Word) : Int := w.toInt

/-- `bits32(v)`: the 32-bit two's-complement encoding (R9); for v in [0,25] it is `zext_32(v)`. -/
def bits32 (v : Int) : Word := BitVec.ofInt 32 v

/-- `rem_t(x, m)`: the truncating remainder, `x - m * trunc(x / m)` (R11). -/
def remT (x m : Int) : Int := x - m * Int.tdiv x m

/-- `norm26(x)`: "mod then add modulus then mod again" (R12). -/
def norm26 (x : Int) : Int := remT (remT x MOD + MOD) MOD

/-- Whether an integer is a unit mod 26 (R13). -/
def isUnit26 (a : Int) : Bool := Int.gcd (norm26 a) MOD == 1

/-- A 2x2 integer matrix, row-major (R14). -/
structure Mat2 where
  k00 : Int
  k01 : Int
  k10 : Int
  k11 : Int
deriving DecidableEq, Repr

/-- A column vector of two integers (10_state.md R19). -/
structure Vec2 where
  v0 : Int
  v1 : Int
deriving DecidableEq, Repr

/-- `det(K)`, over the integers (R14). -/
def Mat2.det (K : Mat2) : Int := K.k00 * K.k11 - K.k01 * K.k10

/-- `adj(K)`: the diagonal swapped, the off-diagonal negated (R14). -/
def Mat2.adj (K : Mat2) : Mat2 := ⟨K.k11, -K.k01, -K.k10, K.k00⟩

/-- Every entry multiplied by c. -/
def Mat2.scale (c : Int) (K : Mat2) : Mat2 := ⟨c * K.k00, c * K.k01, c * K.k10, c * K.k11⟩

/-- Every entry normalised into [0,26) (R12). -/
def Mat2.norm (K : Mat2) : Mat2 := ⟨norm26 K.k00, norm26 K.k01, norm26 K.k10, norm26 K.k11⟩

/-- The matrix times the column vector, the key used row by row, each entry normalised
(41_matrix.md R85). -/
def Mat2.mulVec (K : Mat2) (v : Vec2) : Vec2 :=
  ⟨norm26 (K.k00 * v.v0 + K.k01 * v.v1), norm26 (K.k10 * v.v0 + K.k11 * v.v1)⟩

/-- The document's `multiply2x2` (41_matrix.md R88): no command of the unit, but two MVMULs. -/
def Mat2.mul (A B : Mat2) : Mat2 :=
  ⟨norm26 (A.k00 * B.k00 + A.k01 * B.k10), norm26 (A.k00 * B.k01 + A.k01 * B.k11),
   norm26 (A.k10 * B.k00 + A.k11 * B.k10), norm26 (A.k10 * B.k01 + A.k11 * B.k11)⟩

/-- The candidates 1, 2, ..., 25 of the search, ascending (40_scalar.md R71). -/
def candidates : List Int := (List.range 25).map (fun n : Nat => (n : Int) + 1)

/-- The brute-force search of SINV and of MINV's inner step (R71, 41_matrix.md R79): the first
candidate c with `rem_t(norm26(a)*c, 26) = 1`. -/
def scalarInverse (a : Int) : Option Int :=
  candidates.find? (fun c => remT (norm26 a * c) MOD == 1)

/-- The determinant reduced but not normalised (41_matrix.md R75). -/
def Mat2.detRem (K : Mat2) : Int := remT K.det MOD

/-- `inverseKey(K)` (41_matrix.md R78): the adjugate scaled by the inverse of the determinant and
normalised, if that inverse exists. -/
def Mat2.inverse (K : Mat2) : Option Mat2 :=
  (scalarInverse K.detRem).map (fun inv => (K.adj.scale inv).norm)

end Sys2Proof.Machine
end

