-- ==== Sys2Proof/Machine/Operands.lean ====
section
/-! DEFINITION. The implicit operands and results of the commands (30_encoding.md R62): operands are
read through `sint32`, results are written through `bits32` (00_scope.md R9). -/

namespace Sys2Proof.Machine

/-- The matrix operand K (10_state.md R18). -/
def Registers.matrix (r : Registers) : Mat2 :=
  ⟨sint32 r.M00, sint32 r.M01, sint32 r.M10, sint32 r.M11⟩

/-- The vector operand v (10_state.md R19). -/
def Registers.vector (r : Registers) : Vec2 := ⟨sint32 r.V0, sint32 r.V1⟩

/-- The scalar operand a (10_state.md R20). -/
def Registers.scalar (r : Registers) : Int := sint32 r.SA

/-- Writing the scalar result RS (10_state.md R30). -/
def Registers.setScalarResult (r : Registers) (v : Int) : Registers := { r with RS := bits32 v }

/-- Writing the vector result RV0, RV1 (10_state.md R31). -/
def Registers.setVectorResult (r : Registers) (y : Vec2) : Registers :=
  { r with RV0 := bits32 y.v0, RV1 := bits32 y.v1 }

/-- Writing the matrix result RM00 to RM11, row-major (10_state.md R32). -/
def Registers.setMatrixResult (r : Registers) (R : Mat2) : Registers :=
  { r with RM00 := bits32 R.k00, RM01 := bits32 R.k01, RM10 := bits32 R.k10, RM11 := bits32 R.k11 }

/-- Replacing all of STATUS at once (10_state.md R29; 00_scope.md R15). -/
def Registers.setStatus (r : Registers) (st : Status) : Registers := { r with STATUS := st }

end Sys2Proof.Machine
end

