-- ==== Sys2Proof/Machine/Ops.lean ====
section
/-! DEFINITION. The named operations over the register window (10_state.md R16; 20_memory.md R43,
R44) and over the state: reading and writing a register, completing a command, IllegalCommand, the
bus error, reset. The unit takes no traps (60_exceptions.md R93, R100, R101), so there is no exception
entry and no return: its two error responses, `illegalCommand` and `State.busError`, stand here. -/

namespace Sys2Proof.Machine

/-- The sixteen registers of the window (R16). -/
inductive Reg where
  | M00 | M01 | M10 | M11 | V0 | V1 | SA | CMD
  | STATUS | RS | RV0 | RV1 | RM00 | RM01 | RM10 | RM11
deriving DecidableEq, Repr

/-- The access rights of a register (R16, column "access"). -/
inductive Rights where
  /-- Operand registers: the host reads and writes. -/
  | readWrite
  /-- CMD: a write executes, a read returns 0. -/
  | writeOnly
  /-- STATUS and the results: a write is ignored. -/
  | readOnly
deriving DecidableEq, Repr

/-- The byte offset of a register (R16). -/
def Reg.offset : Reg → Nat
  | .M00 => 0x00
  | .M01 => 0x04
  | .M10 => 0x08
  | .M11 => 0x0C
  | .V0 => 0x10
  | .V1 => 0x14
  | .SA => 0x18
  | .CMD => 0x1C
  | .STATUS => 0x20
  | .RS => 0x24
  | .RV0 => 0x28
  | .RV1 => 0x2C
  | .RM00 => 0x30
  | .RM01 => 0x34
  | .RM10 => 0x38
  | .RM11 => 0x3C

/-- The access rights of each register (R16). -/
def Reg.rights : Reg → Rights
  | .M00 | .M01 | .M10 | .M11 | .V0 | .V1 | .SA => .readWrite
  | .CMD => .writeOnly
  | .STATUS | .RS | .RV0 | .RV1 | .RM00 | .RM01 | .RM10 | .RM11 => .readOnly

/-- All registers, in the order of R16. -/
def Reg.all : List Reg :=
  [.M00, .M01, .M10, .M11, .V0, .V1, .SA, .CMD,
   .STATUS, .RS, .RV0, .RV1, .RM00, .RM01, .RM10, .RM11]

/-- The register at an aligned offset of the window; none for the reserved slots (R16, R34). -/
def Reg.atOffset (off : Nat) : Option Reg := Reg.all.find? (fun r => r.offset == off)

/-- `x[NAME]`: the word a register holds (R15). CMD holds nothing and reads 0 (R22). -/
def Registers.get (r : Registers) : Reg → Word
  | .M00 => r.M00
  | .M01 => r.M01
  | .M10 => r.M10
  | .M11 => r.M11
  | .V0 => r.V0
  | .V1 => r.V1
  | .SA => r.SA
  | .CMD => 0
  | .STATUS => r.STATUS.toWord
  | .RS => r.RS
  | .RV0 => r.RV0
  | .RV1 => r.RV1
  | .RM00 => r.RM00
  | .RM01 => r.RM01
  | .RM10 => r.RM10
  | .RM11 => r.RM11

/-- `x[NAME] <- w` by the host: only an operand register takes a word this way (R16, R33). -/
def Registers.setOperand (r : Registers) (name : Reg) (w : Word) : Registers :=
  match name with
  | .M00 => { r with M00 := w }
  | .M01 => { r with M01 := w }
  | .M10 => { r with M10 := w }
  | .M11 => { r with M11 := w }
  | .V0 => { r with V0 := w }
  | .V1 => { r with V1 := w }
  | .SA => { r with SA := w }
  | .CMD | .STATUS | .RS | .RV0 | .RV1 | .RM00 | .RM01 | .RM10 | .RM11 => r

/-- The state with the unit's registers replaced. -/
def State.withRegs (s : State) (r : Registers) : State := { s with regs := r }

/-- The state with one more entry of the observation (R58). -/
def State.observe (s : State) (x : Response) : State := { s with observed := s.observed ++ [x] }

/-- Completing a command: every command is a function of the registers and always completes
(70_reset_and_hazards.md R114, R120). -/
def complete (f : Registers → Registers) (s : State) : Host.Outcome State Fault Refusal :=
  .next (s.withRegs (f s.regs))

/-- IllegalCommand(w) (42_system.md R90): STATUS only. -/
def illegalCommand (w : Word) (s : State) : Host.Outcome State Fault Refusal :=
  complete (fun r => r.setStatus (Status.illegalWord w)) s

/-- `raise BusError(off)` (00_scope.md R15, 60_exceptions.md R95): no register changes; the response is
recorded in the observation and the run goes on (R58). -/
def State.busError (s : State) (off : Nat) : State := s.observe (.busError off)

/-- The reset input driven to a level (70_reset_and_hazards.md R109; log 7): while it is asserted and
at the moment it is released every register holds its reset value. -/
def State.driveReset (s : State) (asserted : Bool) : State :=
  if asserted || s.resetAsserted then
    { s with regs := Registers.reset, resetAsserted := asserted }
  else s

/-- Power off and on again: all state is lost and the unit is in reset (60_exceptions.md R108; log 8). -/
def State.powerCycle (s : State) : State :=
  { s with regs := Registers.reset, resetAsserted := true }

/-- Where an access starts, as a byte offset from BASE. -/
def Access.off : Access → Int
  | .read off _ => off
  | .write off _ => off

/-- The width of an access in bytes. -/
def Access.width : Access → Nat
  | .read _ n => n
  | .write _ lanes => lanes.length

/-- The offset in the window where an access starts; none outside the window (R42, R95; log 6). -/
def Access.windowOffset (a : Access) : Option Nat :=
  if 0 ≤ a.off ∧ a.off < Config.windowBytes then some a.off.toNat else none

/-- The test of R43 and R44: a width other than 4 bytes, or an offset no multiple of 4. -/
def Access.malformed (a : Access) (off : Nat) : Bool := a.width != 4 || off % 4 != 0

/-- The access at an absolute byte address of the platform (R55): BASE + off is offset off. -/
def offsetOfAddress (addr : Nat) : Int := (addr : Int) - Config.BASE

/-- The aligned word read of a register (`RD` of 30_encoding.md R68). -/
def readOf (r : Reg) : HostEvent := .access (.read r.offset 4)

/-- The aligned word write of a register (`WR` of 30_encoding.md R68). -/
def writeOf (r : Reg) (w : Word) : HostEvent := .access (.write r.offset (lanesOfWord w))

/-- The write of a command word to CMD (`CMDW` of 30_encoding.md R68). -/
def commandWrite (w : Word) : HostEvent := writeOf .CMD w

end Sys2Proof.Machine
end

