-- ==== Sys2Proof/Machine/Matrix.lean ====
section
/-! DEFINITION. The matrix commands (41_matrix.md). -/

namespace Sys2Proof.Machine

/-- What DET does to the registers (R75). -/
def detRegs (r : Registers) : Registers :=
  (r.setScalarResult r.matrix.detRem).setStatus (Status.success 2)

/-- DET (41_matrix.md R75): the determinant reduced mod 26, signed. -/
def execDet (s : State) : Host.Outcome State Fault Refusal := complete detRegs s

/-- What MINV does to the registers (R78); on failure only STATUS changes (R80). -/
def minvRegs (r : Registers) : Registers :=
  match r.matrix.inverse with
  | some R => (r.setMatrixResult R).setStatus (Status.success 3)
  | none => r.setStatus (Status.notInvertible 3)

/-- MINV (41_matrix.md R78). -/
def execMinv (s : State) : Host.Outcome State Fault Refusal := complete minvRegs s

/-- What MVMUL does to the registers (R85). -/
def mvmulRegs (r : Registers) : Registers :=
  (r.setVectorResult (r.matrix.mulVec r.vector)).setStatus (Status.success 4)

/-- MVMUL (41_matrix.md R84, R85). -/
def execMvmul (s : State) : Host.Outcome State Fault Refusal := complete mvmulRegs s

end Sys2Proof.Machine
end

