-- ==== Sys2Proof/Machine/Scalar.lean ====
section
/-! DEFINITION. The scalar modular inverse (40_scalar.md). -/

namespace Sys2Proof.Machine

/-- What SINV does to the registers (R71); on failure RS is the sentinel 0 (R73). -/
def sinvRegs (r : Registers) : Registers :=
  match scalarInverse r.scalar with
  | some inv => (r.setScalarResult inv).setStatus (Status.success 1)
  | none => (r.setScalarResult 0).setStatus (Status.notInvertible 1)

/-- SINV (40_scalar.md R71). -/
def execSinv (s : State) : Host.Outcome State Fault Refusal := complete sinvRegs s

end Sys2Proof.Machine
end

