-- ==== Sys2Proof/Machine/System.lean ====
section
/-! DEFINITION. The system command (42_system.md). -/

namespace Sys2Proof.Machine

/-- What NOP does to the registers (R89): STATUS only. -/
def nopRegs (r : Registers) : Registers := r.setStatus (Status.success 0)

/-- NOP (42_system.md R89). -/
def execNop (s : State) : Host.Outcome State Fault Refusal := complete nopRegs s

end Sys2Proof.Machine
end

