-- ==== Sys2Proof/Machine/Dispatch.lean ====
section
/-! DEFINITION. One arm per command (30_encoding.md R61, R63). -/

namespace Sys2Proof.Machine

def exec (i : Instr) (s : State) : Host.Outcome State Fault Refusal :=
  match i with
  | .nop => Sys2Proof.Machine.execNop s
  | .sinv => Sys2Proof.Machine.execSinv s
  | .det => Sys2Proof.Machine.execDet s
  | .minv => Sys2Proof.Machine.execMinv s
  | .mvmul => Sys2Proof.Machine.execMvmul s

end Sys2Proof.Machine
end

