-- ==== Sys2Proof/Machine/Bus.lean ====
section
/-! DEFINITION. What the unit does with one host event: MemRead, MemWrite and Execute (20_memory.md
R43, R44; 30_encoding.md R61), reset and power (70_reset_and_hazards.md R109, R110; 60_exceptions.md
R108), in the order of checks of 60_exceptions.md R99. -/

namespace Sys2Proof.Machine

/-- `Execute(w)` (30_encoding.md R61): the word's command, or IllegalCommand(w). -/
def executeWord (w : Word) (s : State) : Host.Outcome State Fault Refusal :=
  match decode w with
  | .ok i => exec i s
  | .error _ => illegalCommand w s

/-- What a well-formed read at an offset returns (R43): the register, or 0 at a reserved slot (R34). -/
def Registers.readWindow (r : Registers) (off : Nat) : Word :=
  match Reg.atOffset off with
  | some name => r.get name
  | none => 0

/-- A well-formed write of w at an offset (R44): an operand register stores it, CMD executes it, a
read-only register (R33) or a reserved slot (R34) ignores it. -/
def writeWindow (off : Nat) (w : Word) (s : State) : Host.Outcome State Fault Refusal :=
  match Reg.atOffset off with
  | some name =>
    match name.rights with
    | .readWrite => .next (s.withRegs (s.regs.setOperand name w))
    | .writeOnly => executeWord w s
    | .readOnly => .next s
  | none => .next s

/-- A host access inside the window: a malformed one is a BusError and is never decoded (R99). -/
def accessWindow (a : Access) (off : Nat) (s : State) : Host.Outcome State Fault Refusal :=
  if a.malformed off then .next (s.busError off)
  else
    match a with
    | .read _ _ => .next (s.observe (.word (s.regs.readWindow off)))
    | .write _ lanes => writeWindow off (wordOfLanes lanes) s

/-- A host access (20_memory.md R57): outside the window it is none of the unit's (R95, log 4), and
while reset is asserted its outcome is open and the run is refused (R110, log 5). -/
def performAccess (a : Access) (s : State) : Host.Outcome State Fault Refusal :=
  match a.windowOffset with
  | none => .refused .accessOutsideWindow
  | some off => if s.resetAsserted then .refused .accessDuringReset else accessWindow a off s

/-- One event of the outside world. -/
def performEvent (e : HostEvent) (s : State) : Host.Outcome State Fault Refusal :=
  match e with
  | .access a => performAccess a s
  | .driveReset asserted => .next (s.driveReset asserted)
  | .resetDuring _ => .refused .accessInFlightAtReset
  | .powerCycle => .next s.powerCycle

/-- The oldest pending event is performed and leaves the list (20_memory.md R49: one at a time, in the
host's order). With no event pending nothing changes: the unit starts nothing itself (R21, R109; log 9). -/
def nextEvent (s : State) : Host.Outcome State Fault Refusal :=
  match s.pending with
  | [] => .next s
  | e :: rest => performEvent e { s with pending := rest }

end Sys2Proof.Machine
end

