-- ==== Sys2Proof/Machine/Step.lean ====
section
/-! DEFINITION. One step of the machine: the host's oldest pending event (20_memory.md R49). -/

namespace Sys2Proof.Machine

/-- One step. -/
def step (s : State) : Host.Outcome State Fault Refusal := nextEvent s

/-- s with the write of the command word w to CMD as its very next event, and the reset input
released, so that the unit accepts it (log 1: the unit fetches nothing, its next command is the word
the host writes next to CMD, R21, R52). -/
def State.withFetchWord (s : State) (nbits w : Nat) : State :=
  { s with
    resetAsserted := false
    pending := commandWrite (BitVec.ofNat 32 (w % 2 ^ nbits)) :: s.pending }

end Sys2Proof.Machine
end

