-- ==== Sys2Proof/Machine/HostNotation.lean ====
section
/-! DEFINITION. The notation of host programs (30_encoding.md R68) and the pseudo-commands (R69). It is
host code beside the unit: the unit sees only the accesses. -/

namespace Sys2Proof.Machine

/-- A `<value>` of R68: an integer in [-2^31, 2^31-1], or a 32-bit hex word. -/
inductive HostValue where
  | int (v : Int)
  | hex (w : Word)
deriving DecidableEq, Repr

/-- The word a value stands for (R68: `bits32(value)`). -/
def HostValue.toWord : HostValue → Word
  | .int v => bits32 v
  | .hex w => w

/-- The fields an IF line can test. STATUS is the one register with named fields (10_state.md R23; log 13). -/
inductive StatusField where
  | OK | NOINV | ILLEGAL | LASTOP
deriving DecidableEq, Repr

/-- A field of a STATUS word, read as an unsigned number (10_state.md R23, 00_scope.md R8). -/
def StatusField.of (f : StatusField) (w : Word) : Nat :=
  match f with
  | .OK => (w.extractLsb' 0 1).toNat
  | .NOINV => (w.extractLsb' 1 1).toNat
  | .ILLEGAL => (w.extractLsb' 2 1).toNat
  | .LASTOP => (w.extractLsb' 4 4).toNat

/-- One line of a host program (R68). -/
inductive HostLine where
  /-- `WR <reg>, <value>` -/
  | WR (r : Reg) (v : HostValue)
  /-- `RD <reg>` -/
  | RD (r : Reg)
  /-- `CMD <mnemonic>` -/
  | CMD (i : Instr)
  /-- `CMDW <word>` -/
  | CMDW (w : Word)
  /-- `<label>:` -/
  | label (name : String)
  /-- `IF STATUS.<field> = <n> GOTO <label>` -/
  | ifGoto (f : StatusField) (n : Nat) (target : String)
deriving DecidableEq, Repr

/-- The access a line makes; labels and IF lines are not accesses (R68). -/
def HostLine.event? : HostLine → Option HostEvent
  | .WR r v => some (writeOf r v.toWord)
  | .RD r => some (readOf r)
  | .CMD i => some (commandWrite (encode i))
  | .CMDW w => some (commandWrite w)
  | .label _ => none
  | .ifGoto _ _ _ => none

/-- The pseudo-commands of R69. -/
inductive PseudoCommand where
  | LDM (k00 k01 k10 k11 : HostValue)
  | LDV (v0 v1 : HostValue)
  | INVS (a : HostValue)
  | DETM (k00 k01 k10 k11 : HostValue)
  | INVM (k00 k01 k10 k11 : HostValue)
  | XFORM (v0 v1 : HostValue)
deriving DecidableEq, Repr

/-- The expansion of LDM (R69). -/
def loadMatrix (k00 k01 k10 k11 : HostValue) : List HostLine :=
  [.WR .M00 k00, .WR .M01 k01, .WR .M10 k10, .WR .M11 k11]

/-- The expansion of LDV (R69). -/
def loadVector (v0 v1 : HostValue) : List HostLine := [.WR .V0 v0, .WR .V1 v1]

/-- "A pseudo-command is nothing but its expansion" (R69). -/
def PseudoCommand.expand : PseudoCommand → List HostLine
  | .LDM k00 k01 k10 k11 => loadMatrix k00 k01 k10 k11
  | .LDV v0 v1 => loadVector v0 v1
  | .INVS a => [.WR .SA a, .CMD .sinv, .RD .STATUS, .RD .RS]
  | .DETM k00 k01 k10 k11 => loadMatrix k00 k01 k10 k11 ++ [.CMD .det, .RD .RS]
  | .INVM k00 k01 k10 k11 =>
    loadMatrix k00 k01 k10 k11 ++
      [.CMD .minv, .RD .STATUS, .RD .RM00, .RD .RM01, .RD .RM10, .RD .RM11]
  | .XFORM v0 v1 => loadVector v0 v1 ++ [.CMD .mvmul, .RD .RV0, .RD .RV1]

/-- The accesses of a run of lines with no branch taken: the host program of 20_memory.md R58. -/
def eventsOf (lines : List HostLine) : List HostEvent := lines.filterMap HostLine.event?

end Sys2Proof.Machine
end

