-- ==== Sys2Proof/WellFormed.lean ====
section
/-! DEFINITION. Which terms are well-formed: commands, the modulus, and host programs (30_encoding.md
R62, R68; 00_scope.md R6). Where a check on a host program's IF lines and labels is the model's and not
the spec's, its docstring says so (log 15). -/

namespace Sys2Proof

/-- Every command is well-formed: a command word has no immediate and no register field (30_encoding.md
R62), so there is nothing to check. -/
def Instr.wf : Instr → Bool
  | .nop => true
  | .sinv => true
  | .det => true
  | .minv => true
  | .mvmul => true

/-- The unit supports one modulus, "it must refuse any other value" (00_scope.md R6; log 12). -/
def modulusSupported (m : Int) : Bool := m == Config.MOD

namespace Machine

/-- A `<value>` is in [-2^31, 2^31-1] or is a 32-bit word (30_encoding.md R68). -/
def HostValue.wf : HostValue → Bool
  | .int v => decide (-(2 ^ 31) ≤ v ∧ v ≤ 2 ^ 31 - 1)
  | .hex _ => true

/-- The largest value a STATUS field can hold (10_state.md R23, column "legal values"). Its use as a limit
on the `<n>` of an IF line is the model's (log 15). -/
def StatusField.maxValue : StatusField → Nat
  | .OK => 1
  | .NOINV => 1
  | .ILLEGAL => 1
  | .LASTOP => 15

/-- The labels of a host program, in order. -/
def labelsOf (program : List HostLine) : List String :=
  program.filterMap (fun l => match l with
    | .label name => some name
    | .WR _ _ | .RD _ | .CMD _ | .CMDW _ | .ifGoto _ _ _ => none)

/-- A line of a program: values in range (R68), a branch to a label of the program. DESIGN CHOICE (log 15):
R68 puts no limit on the `<n>` of an IF line and does not say that its label stands in the program; the
model calls a line ill-formed whose `<n>` its field cannot hold or whose label is missing. `hostLine` runs
an IF with any `<n>`: above the field's range it never branches. -/
def HostLine.wf (program : List HostLine) : HostLine → Bool
  | .WR _ v => v.wf
  | .RD _ => true
  | .CMD i => i.wf
  | .CMDW _ => true
  | .label _ => true
  | .ifGoto f n target => decide (n ≤ f.maxValue) && (labelsOf program).contains target

/-- A host program: every line well-formed and every label naming one point. DEDUCED (log 15): R68 says
that a label "names a point of the host program", not in words that no label stands twice. -/
def programWf (program : List HostLine) : Bool :=
  program.all (fun l => l.wf program) && decide ((labelsOf program).Nodup)

end Machine

end Sys2Proof
end

