-- ==== Sys2Proof/Laws/PerInstr.lean ====
section
/-! SUPPORT. The family EncodeDecode: a command is well-formed, its word is its OPC with RSV 0
(30_encoding.md R60, R63), and the decoders read the command back from it. -/

namespace Sys2Proof.Laws.EncodeDecode

/-- The command's word decodes to the command, as a word, as bus lanes and by the opcode table. -/
def Statement (i : Instr) : Prop :=
  i.wf = true ∧ decode (encode i) = .ok i ∧ decodeBytes (lanesOfWord (encode i)) = .ok i ∧
    tableDecode (encode i) = some i ∧ (encode i).toNat = i.opc.toNat

theorem nop : Statement .nop := ⟨rfl, rfl, rfl, rfl, rfl⟩
theorem sinv : Statement .sinv := ⟨rfl, rfl, rfl, rfl, rfl⟩
theorem det : Statement .det := ⟨rfl, rfl, rfl, rfl, rfl⟩
theorem minv : Statement .minv := ⟨rfl, rfl, rfl, rfl, rfl⟩
theorem mvmul : Statement .mvmul := ⟨rfl, rfl, rfl, rfl, rfl⟩

end Sys2Proof.Laws.EncodeDecode
end

