-- ==== Sys2Proof/Machine/HostProgram.lean ====
section
/-! DEFINITION. Running a host program with its branches (30_encoding.md R68): host control flow around
the machine's step, which the unit never sees (42_system.md R91). -/

namespace Sys2Proof.Machine

/-- The host's place in its program beside the machine. -/
structure HostRun where
  machine : State
  /-- The index of the next line. -/
  line : Nat
  /-- The word of the most recent RD of STATUS, if there was one. -/
  lastStatus : Option Word
deriving DecidableEq, Repr

/-- Why a host program's run stops before its end (log 13). -/
inductive HostStop where
  /-- The machine's step answered a fault. -/
  | faulted (r : Fault)
  /-- The machine's step answered a refusal. -/
  | refused (r : Refusal)
  /-- An IF line with no RD of STATUS before it: R68 gives it no meaning. -/
  | branchBeforeRead
  /-- A GOTO to a label the program does not have. -/
  | unknownLabel (name : String)
deriving DecidableEq, Repr

/-- The outcome of one line. -/
inductive HostOutcome where
  | next (h : HostRun)
  | stopped (why : HostStop)
deriving DecidableEq, Repr

/-- The index of a label's line, the first where it stands twice (DESIGN CHOICE, log 15). -/
def findLabel (program : List HostLine) (name : String) : Option Nat :=
  program.findIdx? (fun l => l == .label name)

/-- The machine performing one access of the host now. -/
def hostAccess (e : HostEvent) (s : State) : Host.Outcome State Fault Refusal :=
  step { s with pending := e :: s.pending }

/-- The word the last read returned. -/
def lastWord (observed : List Response) : Option Word :=
  match observed.getLast? with
  | some (.word w) => some w
  | _ => none

/-- One access line: the machine performs it, and an RD of STATUS is remembered for the IF lines. -/
def hostAccessLine (l : HostLine) (e : HostEvent) (h : HostRun) : HostOutcome :=
  match hostAccess e h.machine with
  | .next t =>
    .next
      { machine := t
        line := h.line + 1
        lastStatus := if l = .RD .STATUS then lastWord t.observed else h.lastStatus }
  | .fault r => .stopped (.faulted r)
  | .refused r => .stopped (.refused r)

/-- One line of the program (R68): an access, a label (passed over), or a branch on the most recent
RD of STATUS. -/
def hostLine (program : List HostLine) (l : HostLine) (h : HostRun) : HostOutcome :=
  match l with
  | .WR r v => hostAccessLine l (writeOf r v.toWord) h
  | .RD r => hostAccessLine l (readOf r) h
  | .CMD i => hostAccessLine l (commandWrite (encode i)) h
  | .CMDW w => hostAccessLine l (commandWrite w) h
  | .label _ => .next { h with line := h.line + 1 }
  | .ifGoto f n target =>
    match h.lastStatus with
    | none => .stopped .branchBeforeRead
    | some w =>
      if f.of w = n then
        match findLabel program target with
        | some k => .next { h with line := k }
        | none => .stopped (.unknownLabel target)
      else .next { h with line := h.line + 1 }

/-- At most fuel lines of the program; past its last line the run has ended (20_memory.md R58). -/
def hostRun (program : List HostLine) : Nat → HostRun → HostOutcome
  | 0, h => .next h
  | fuel + 1, h =>
    match program[h.line]? with
    | none => .next h
    | some l =>
      match hostLine program l h with
      | .next h' => hostRun program fuel h'
      | .stopped why => .stopped why

/-- The start of a host program's run at a machine state. -/
def HostRun.start (s : State) : HostRun := { machine := s, line := 0, lastStatus := none }

end Sys2Proof.Machine
end

