-- ==== Sys2Proof/Safety.lean ====
section
/-! DEFINITION. What the statements about runs speak in: the invariant of the unit (10_state.md R23,
R38; 70_reset_and_hazards.md R109), the host's duties (R57, R110), and the events that touch a register. -/

namespace Sys2Proof.Machine

/-- The result ranges of 10_state.md R38. -/
structure Registers.InRange (r : Registers) : Prop where
  rv0 : r.RV0.toNat ≤ 25
  rv1 : r.RV1.toNat ≤ 25
  rm00 : r.RM00.toNat ≤ 25
  rm01 : r.RM01.toNat ≤ 25
  rm10 : r.RM10.toNat ≤ 25
  rm11 : r.RM11.toNat ≤ 25
  rsLow : -25 ≤ r.RS.toInt
  rsHigh : r.RS.toInt ≤ 25

/-- "At most one of OK, NOINV and ILLEGAL is 1" (10_state.md R23). -/
def Status.atMostOneFlag (st : Status) : Bool :=
  !(st.OK && st.NOINV) && !(st.OK && st.ILLEGAL) && !(st.NOINV && st.ILLEGAL)

/-- No flag is set: only after reset, before the first command (10_state.md R23). -/
def Status.noFlag (st : Status) : Bool := !st.OK && !st.NOINV && !st.ILLEGAL

/-- The matrix result as integers. -/
def Registers.matrixResult (r : Registers) : Mat2 :=
  ⟨sint32 r.RM00, sint32 r.RM01, sint32 r.RM10, sint32 r.RM11⟩

/-- Every result register and STATUS hold the reset value. -/
def Registers.ResultsAtReset (r : Registers) : Prop :=
  r.STATUS = Status.reset ∧ r.RS = 0 ∧ r.RV0 = 0 ∧ r.RV1 = 0 ∧
    r.RM00 = 0 ∧ r.RM01 = 0 ∧ r.RM10 = 0 ∧ r.RM11 = 0

/-- The invariant of the machine: the ranges of R38, the STATUS rules of R23 and R29, what RS and RM
hold (R30, R32), and reset holding every register at its reset value (R109). -/
structure State.Inv (s : State) : Prop where
  inRange : s.regs.InRange
  oneFlag : s.regs.STATUS.atMostOneFlag = true
  /-- R23: "All three are 0 only after reset (rule R37), before the first command". -/
  noFlagOnlyAfterReset : s.regs.STATUS.noFlag = true → s.regs.ResultsAtReset
  /-- R29: a successful command's LASTOP is one of the five opcodes. -/
  okOpcode : s.regs.STATUS.OK = true → s.regs.STATUS.LASTOP.toNat ≤ 4
  /-- R25: NOINV comes from SINV or MINV only. -/
  noinvOpcode : s.regs.STATUS.NOINV = true → s.regs.STATUS.LASTOP = 1 ∨ s.regs.STATUS.LASTOP = 3
  /-- R30: after a failed SINV RS is 0. -/
  failedSinv : s.regs.STATUS.NOINV = true → s.regs.STATUS.LASTOP = 1 → s.regs.RS = 0
  /-- R30: after a successful SINV RS is in [1,25]. -/
  goodSinv : s.regs.STATUS.OK = true → s.regs.STATUS.LASTOP = 1 → 1 ≤ s.regs.RS.toNat ∧ s.regs.RS.toNat ≤ 25
  /-- R32: RM is an inverse of some matrix, so its determinant is a unit, or no MINV has succeeded. -/
  matrixResult : s.regs.matrixResult = ⟨0, 0, 0, 0⟩ ∨ Int.gcd s.regs.matrixResult.det 26 = 1
  /-- R109: while reset is asserted every register holds its reset value. -/
  resetHolds : s.resetAsserted = true → s.regs = Registers.reset

/-- The host's duties at the unit, from a level of the reset input on: no access while reset is asserted,
none in flight when it is asserted (R110), and every access inside the window (20_memory.md R55). -/
def hostObeys : Bool → List HostEvent → Bool
  | _, [] => true
  | asserted, .access a :: rest => !asserted && a.windowOffset.isSome && hostObeys asserted rest
  | _, .driveReset asserted :: rest => hostObeys asserted rest
  | _, .resetDuring _ :: _ => false
  | _, .powerCycle :: rest => hostObeys true rest

/-- An aligned word write that reaches register r: the event "the host writes r" (20_memory.md R44). -/
def HostEvent.writes (r : Reg) : HostEvent → Bool
  | .access (.write off lanes) => off == r.offset && lanes.length == 4
  | .access (.read _ _) => false
  | .driveReset _ => false
  | .resetDuring _ => false
  | .powerCycle => false

/-- An event that drives the reset input or the power. -/
def HostEvent.resets : HostEvent → Bool
  | .access _ => false
  | .driveReset _ => true
  | .resetDuring _ => true
  | .powerCycle => true

/-- Two register records that agree on every operand register. -/
def Registers.SameOperands (r r' : Registers) : Prop :=
  r'.M00 = r.M00 ∧ r'.M01 = r.M01 ∧ r'.M10 = r.M10 ∧ r'.M11 = r.M11 ∧
    r'.V0 = r.V0 ∧ r'.V1 = r.V1 ∧ r'.SA = r.SA

/-- Two register records that agree on STATUS and every result register. -/
def Registers.SameResults (r r' : Registers) : Prop :=
  r'.STATUS = r.STATUS ∧ r'.RS = r.RS ∧ r'.RV0 = r.RV0 ∧ r'.RV1 = r.RV1 ∧
    r'.RM00 = r.RM00 ∧ r'.RM01 = r.RM01 ∧ r'.RM10 = r.RM10 ∧ r'.RM11 = r.RM11

/-- The host copying the matrix result into the matrix operand: "to chain commands, the host copies
results into operand registers itself" (70_reset_and_hazards.md R118). -/
def State.copyMatrix (s : State) : State :=
  { s with regs := { s.regs with
      M00 := s.regs.RM00, M01 := s.regs.RM01, M10 := s.regs.RM10, M11 := s.regs.RM11 } }

/-- The host copying the vector result into the vector operand (R118). -/
def State.copyVector (s : State) : State :=
  { s with regs := { s.regs with V0 := s.regs.RV0, V1 := s.regs.RV1 } }

/-- The determinant of the matrix operand, over the integers (00_scope.md R14). -/
def Registers.determinant (r : Registers) : Int :=
  r.M00.toInt * r.M11.toInt - r.M01.toInt * r.M10.toInt

end Sys2Proof.Machine
end

