-- ==== Sys2Proof/Certificates/Slice0/Obligations.lean ====
section
/-! DEFINITION. The statements for the provers, in the order of the spec's files. Where a docstring says
"derived", the spec marks the sentence as its own inference ([derived: …]) or general knowledge, or the
log entry named is the model's own choice. -/

open Sys2Proof Sys2Proof.Machine

/-! Reset and state (10_state.md, 70_reset_and_hazards.md). -/

/-- R37: every register of R16 is 0 after reset, so K, v, a and STATUS are. -/
def Obligations.ResetRegistersAreZero : Prop :=
  (∀ r : Reg, State.reset.regs.get r = 0) ∧
    State.reset.regs.STATUS = { OK := false, NOINV := false, ILLEGAL := false, LASTOP := 0 } ∧
    State.reset.regs.matrix = ⟨0, 0, 0, 0⟩ ∧ State.reset.regs.vector = ⟨0, 0⟩ ∧
    State.reset.regs.scalar = 0

/-- Derived (R112, "Consequences for a command issued straight after reset, from those values"). -/
def Obligations.CommandsStraightAfterReset : Prop :=
  exec .sinv State.reset = .next { State.reset with
      regs := { Registers.reset with RS := 0, STATUS := ⟨false, true, false, 1⟩ } } ∧
  exec .det State.reset = .next { State.reset with
      regs := { Registers.reset with RS := 0, STATUS := ⟨true, false, false, 2⟩ } } ∧
  exec .minv State.reset = .next { State.reset with
      regs := { Registers.reset with STATUS := ⟨false, true, false, 3⟩ } } ∧
  exec .mvmul State.reset = .next { State.reset with
      regs := { Registers.reset with RV0 := 0, RV1 := 0, STATUS := ⟨true, false, false, 4⟩ } }

/-- Derived (R109; the input as a level is the model's reading, log 7; the idle step, log 9; the power
cycle, R108 and log 8): asserting reset, releasing it and a power cycle leave every register at its reset
value, releasing an input that is not asserted changes nothing, and with no event nothing changes. -/
def Obligations.ResetInputSetsEveryRegister : Prop :=
  ∀ (s : State) (rest : List HostEvent),
    step { s with pending := .driveReset true :: rest } =
      .next { s with regs := Registers.reset, resetAsserted := true, pending := rest } ∧
    (s.resetAsserted = true → step { s with pending := .driveReset false :: rest } =
      .next { s with regs := Registers.reset, resetAsserted := false, pending := rest }) ∧
    (s.resetAsserted = false → step { s with pending := .driveReset false :: rest } =
      .next { s with pending := rest }) ∧
    step { s with pending := .powerCycle :: rest } =
      .next { s with regs := Registers.reset, resetAsserted := true, pending := rest } ∧
    step { s with pending := [] } = .next { s with pending := [] }

/-- R110: an access while reset is asserted, and an access in flight when it is asserted, are refused. -/
def Obligations.AccessAtResetIsRefused : Prop :=
  ∀ (s : State) (a : Access) (rest : List HostEvent),
    (s.resetAsserted = true →
      ∃ r, step { s with pending := .access a :: rest } = .refused r) ∧
    (s.resetAsserted = true → 0 ≤ a.off → a.off < 128 →
      step { s with pending := .access a :: rest } = .refused .accessDuringReset) ∧
    step { s with pending := .resetDuring a :: rest } = .refused .accessInFlightAtReset

/-- R23, derived: the STATUS word a host reads, OK in bit 0, NOINV in bit 1, ILLEGAL in bit 2, LASTOP in
bits 7:4, the reserved bits 3 and 31:8 zero. -/
def Obligations.StatusWordLayout : Prop :=
  ∀ r : Registers,
    (r.get .STATUS).toNat =
      r.STATUS.OK.toNat + 2 * r.STATUS.NOINV.toNat + 4 * r.STATUS.ILLEGAL.toNat
        + 16 * r.STATUS.LASTOP.toNat

/-- The invariant of Safety.lean holds after reset. -/
def Obligations.InvariantAtReset : Prop := State.Inv State.reset

/-- Every step keeps the invariant (derived: R38 and R23 are the spec's inferences; R109 for reset). -/
def Obligations.InvariantKeptByEveryStep : Prop :=
  ∀ s t : State, s.Inv → step s = .next t → t.Inv

/-! The window (20_memory.md). -/

/-- R43: the whole of MemRead. A read changes no state (beside the observation, where the response is). -/
def Obligations.MemReadOfWindow : Prop :=
  ∀ (s : State) (off n : Nat) (rest : List HostEvent), s.resetAsserted = false → off < 128 →
    ((n ≠ 4 ∨ off % 4 ≠ 0) →
      step { s with pending := .access (.read off n) :: rest } =
        .next { s with pending := rest, observed := s.observed ++ [.busError off] }) ∧
    (∀ r : Reg, off = r.offset → r ≠ .CMD → n = 4 →
      step { s with pending := .access (.read off n) :: rest } =
        .next { s with pending := rest, observed := s.observed ++ [.word (s.regs.get r)] }) ∧
    ((off = 0x1C ∨ 0x40 ≤ off) → off % 4 = 0 → n = 4 →
      step { s with pending := .access (.read off n) :: rest } =
        .next { s with pending := rest, observed := s.observed ++ [.word 0] })

/-- R44: the whole of MemWrite. -/
def Obligations.MemWriteOfWindow : Prop :=
  ∀ (s : State) (off : Nat) (lanes : List Byte) (rest : List HostEvent),
    s.resetAsserted = false → off < 128 →
    ((lanes.length ≠ 4 ∨ off % 4 ≠ 0) →
      step { s with pending := .access (.write off lanes) :: rest } =
        .next { s with pending := rest, observed := s.observed ++ [.busError off] }) ∧
    (∀ r : Reg, off = r.offset → off ≤ 0x18 → lanes.length = 4 →
      ∃ t, step { s with pending := .access (.write off lanes) :: rest } = .next t ∧
        (∀ r' : Reg, t.regs.get r' = if r' = r then wordOfLanes lanes else s.regs.get r') ∧
        t.regs.STATUS = s.regs.STATUS ∧ t.resetAsserted = s.resetAsserted ∧
        t.pending = rest ∧ t.observed = s.observed) ∧
    (off = 0x1C → lanes.length = 4 →
      step { s with pending := .access (.write off lanes) :: rest } =
        executeWord (wordOfLanes lanes) { s with pending := rest }) ∧
    (0x20 ≤ off → off % 4 = 0 → lanes.length = 4 →
      step { s with pending := .access (.write off lanes) :: rest } = .next { s with pending := rest })

/-- R47: lane k carries bits 8k+7..8k of the word, for a write and for the lanes of a word. -/
def Obligations.LanesAreLittleEndian : Prop :=
  ∀ (b0 b1 b2 b3 : Byte) (w : Word),
    (wordOfLanes [b0, b1, b2, b3]).toNat =
      b0.toNat + 2 ^ 8 * b1.toNat + 2 ^ 16 * b2.toNat + 2 ^ 24 * b3.toNat ∧
    (∀ k : Nat, k < 4 → (lanesOfWord w)[k]? = some (w.extractLsb' (8 * k) 8)) ∧
    (lanesOfWord w).length = 4

/-- Derived (R55, R7; the offset form is log 2; refusing outside the window is log 4): the window is
aligned to 128 bytes, address BASE + off is offset off for whatever BASE, and an access outside is refused. -/
def Obligations.WindowPlacement : Prop :=
  Config.BASE % 128 = 0 ∧ (∀ off : Nat, offsetOfAddress (Config.BASE + off) = off) ∧
  ∀ (s : State) (a : Access) (rest : List HostEvent), (a.off < 0 ∨ 128 ≤ a.off) →
    step { s with pending := .access a :: rest } = .refused .accessOutsideWindow

/-- Derived (R49, "a read returns the value of the latest preceding write to that register"): through any
run of events that neither write the operand register nor reset the unit. -/
def Obligations.OperandReadReturnsLatestWrite : Prop :=
  ∀ (s : State) (r : Reg) (w : Word) (es : List HostEvent),
    s.resetAsserted = false → r.rights = .readWrite → hostObeys false es = true →
    (∀ e ∈ es, e.writes r = false ∧ e.resets = false) →
    ∃ t : State,
      core.run (es.length + 2) { s with pending := writeOf r w :: (es ++ [readOf r]) } = .next t ∧
      t.pending = [] ∧ t.observed.getLast? = some (.word w)

/-- Derived (R18 to R20, R39): an operand register changes only by the host's write of it or by reset. -/
def Obligations.OperandsChangeOnlyByHostWrite : Prop :=
  ∀ (s t : State) (r : Reg), step s = .next t → r.rights = .readWrite →
    t.regs.get r ≠ s.regs.get r →
    ∃ e rest, s.pending = e :: rest ∧ (e.writes r = true ∨ e.resets = true)

/-- R56, derived: writing the same command word twice leaves the registers that writing it once left. -/
def Obligations.CommandWriteIsIdempotent : Prop :=
  ∀ (s : State) (w : Word) (rest : List HostEvent), s.resetAsserted = false →
    ∃ t u : State,
      step { s with pending := commandWrite w :: commandWrite w :: rest } = .next t ∧
      step t = .next u ∧ u.regs = t.regs ∧ u.pending = rest

/-- Derived (R58, R120; the host's duties are R110 and R57): a run of a host that keeps its duties ends
with every event performed, and in no fault and no refusal. -/
def Obligations.DutifulRunCompletes : Prop :=
  ∀ s : State, hostObeys s.resetAsserted s.pending = true →
    ∃ t : State, core.run s.pending.length s = .next t ∧ t.pending = []

/-! Command words (30_encoding.md, 42_system.md). -/

/-- Decode of encode is the command, for every command, by every decoder of the model. -/
def Obligations.EncodedCommandDecodes : Prop :=
  ∀ i : Instr, i.wf = true → Laws.EncodeDecode.Statement i

/-- A few words, written out bit by bit from R60 and R63. -/
def Obligations.SpecWordsDecode : Prop :=
  decode 0b00000000000000000000000000000000#32 = .ok .nop ∧
  decode 0b00000000000000000000000000000001#32 = .ok .sinv ∧
  decode 0b00000000000000000000000000000010#32 = .ok .det ∧
  decode 0b00000000000000000000000000000011#32 = .ok .minv ∧
  decode 0b00000000000000000000000000000100#32 = .ok .mvmul ∧
  decode 0x00000005#32 = .error (.reservedOpcode 5) ∧
  decode 0x00000011#32 = .error .reservedBitsSet

/-- R64, derived: the legal words are exactly the five, and each decodes to one command. -/
def Obligations.LegalWordsAreExactlyFive : Prop :=
  ∀ w : Word,
    (∀ i : Instr, decode w = .ok i ↔ w = encode i) ∧
    ((∃ i, decode w = .ok i) ↔ w = 0 ∨ w = 1 ∨ w = 2 ∨ w = 3 ∨ w = 4)

/-- R60 and R65, derived (the names are the model's): which test rejects a word, and that bytes that are
not one word are rejected. -/
def Obligations.RejectedWordsByName : Prop :=
  (∀ w : Word,
    (16 ≤ w.toNat → decode w = .error .reservedBitsSet) ∧
    (5 ≤ w.toNat → w.toNat < 16 →
      decode w = .error (.reservedOpcode (BitVec.ofNat 4 w.toNat)))) ∧
  (∀ lanes : List Byte, lanes.length ≠ 4 → decodeBytes lanes = .error .notOneWord)

/-- R70, derived: the decoder built from the table agrees with the decoder of R61, and at most one row
matches a word. -/
def Obligations.TableDecoderAgrees : Prop :=
  ∀ w : Word, tableDecode w = (decode w).toOption ∧
    opcodeTable.Pairwise (fun a b => ¬(a.hits w = true ∧ b.hits w = true))

/-- A step whose event is the write of a word that decodes to a well-formed command is exec of that
command, the event having left the list; the same by the lanes as written. -/
def Obligations.StepRunsDecodedCommand : Prop :=
  ∀ (s : State) (i : Instr) (rest : List HostEvent), s.resetAsserted = false → i.wf = true →
    (∀ w : Word, decode w = .ok i →
      step { s with pending := commandWrite w :: rest } = exec i { s with pending := rest }) ∧
    (∀ lanes : List Byte, decodeBytes lanes = .ok i →
      step { s with pending := .access (.write 0x1C lanes) :: rest } = exec i { s with pending := rest })

/-- R61: Execute(w), whole. -/
def Obligations.ExecuteByWord : Prop :=
  ∀ (s : State) (w : Word) (rest : List HostEvent), s.resetAsserted = false →
    ((w.extractLsb' 4 28 ≠ 0 ∨ 4 < (w.extractLsb' 0 4).toNat) →
      step { s with pending := commandWrite w :: rest } =
        .next { s with
          pending := rest
          regs := { s.regs with STATUS := ⟨false, false, true, w.extractLsb' 0 4⟩ } }) ∧
    (w.extractLsb' 4 28 = 0 →
      (w.extractLsb' 0 4 = 0 →
        step { s with pending := commandWrite w :: rest } = exec .nop { s with pending := rest }) ∧
      (w.extractLsb' 0 4 = 1 →
        step { s with pending := commandWrite w :: rest } = exec .sinv { s with pending := rest }) ∧
      (w.extractLsb' 0 4 = 2 →
        step { s with pending := commandWrite w :: rest } = exec .det { s with pending := rest }) ∧
      (w.extractLsb' 0 4 = 3 →
        step { s with pending := commandWrite w :: rest } = exec .minv { s with pending := rest }) ∧
      (w.extractLsb' 0 4 = 4 →
        step { s with pending := commandWrite w :: rest } = exec .mvmul { s with pending := rest }))

/-- R65, R90: every other word writes STATUS only, with LASTOP = w[3:0]; the run goes on. -/
def Obligations.IllegalWordWritesStatusOnly : Prop :=
  ∀ (s : State) (w : Word) (rest : List HostEvent), s.resetAsserted = false → 5 ≤ w.toNat →
    step { s with pending := commandWrite w :: rest } =
      .next { s with
        pending := rest
        regs := { s.regs with STATUS := ⟨false, false, true, BitVec.ofNat 4 w.toNat⟩ } }

/-- R24 to R27: what every CMD write puts into STATUS, what reset does, and that no other event changes it. -/
def Obligations.StatusAfterEveryEvent : Prop :=
  (∀ (s : State) (w : Word) (rest : List HostEvent), s.resetAsserted = false →
    ∃ t, step { s with pending := commandWrite w :: rest } = .next t ∧
      (t.regs.STATUS.OK = true ↔
        w = 0 ∨ w = 2 ∨ w = 4 ∨ (w = 1 ∧ Int.gcd s.regs.SA.toInt 26 = 1) ∨
          (w = 3 ∧ Int.gcd s.regs.determinant 26 = 1)) ∧
      (t.regs.STATUS.NOINV = true ↔
        (w = 1 ∧ Int.gcd s.regs.SA.toInt 26 ≠ 1) ∨ (w = 3 ∧ Int.gcd s.regs.determinant 26 ≠ 1)) ∧
      (t.regs.STATUS.ILLEGAL = true ↔ ¬(w = 0 ∨ w = 1 ∨ w = 2 ∨ w = 3 ∨ w = 4)) ∧
      t.regs.STATUS.LASTOP = w.extractLsb' 0 4) ∧
  (∀ (s : State) (rest : List HostEvent),
    ∃ t, step { s with pending := .driveReset true :: rest } = .next t ∧
      t.regs.STATUS = ⟨false, false, false, 0⟩) ∧
  (∀ s t : State, step s = .next t → t.regs.STATUS ≠ s.regs.STATUS →
    ∃ e rest, s.pending = e :: rest ∧ (e.writes .CMD = true ∨ e.resets = true))

/-- R89: NOP reports success and changes nothing else; the word 0 is a NOP; from reset STATUS then reads
0x00000001, and only NOP, DET and MVMUL, of which only NOP computes nothing, reach OK = 1. -/
def Obligations.NopReportsSuccess : Prop :=
  (∀ s : State, exec .nop s =
    .next { s with regs := { s.regs with STATUS := ⟨true, false, false, 0⟩ } }) ∧
  (∀ (s : State) (rest : List HostEvent), s.resetAsserted = false →
    step { s with pending := commandWrite 0x00000000#32 :: rest } =
      .next { s with
        pending := rest
        regs := { s.regs with STATUS := ⟨true, false, false, 0⟩ } }) ∧
  (∃ t, step { State.reset with pending := [commandWrite 0] } = .next t ∧
    t.regs.get .STATUS = 0x00000001#32) ∧
  (∀ (w : Word) (t : State), step { State.reset with pending := [commandWrite w] } = .next t →
    t.regs.STATUS.OK = true → w = encode .nop ∨ w = encode .det ∨ w = encode .mvmul)

/-! The scalar inverse (40_scalar.md). -/

/-- R71, R73: the first candidate c in 1, 2, ..., 25 with rem_t(an * c, 26) = 1; if none, RS = 0 and
NOINV. `an` is norm26(a), written out as R12 defines it. -/
def Obligations.SinvReturnsFirstInverse : Prop :=
  ∀ s : State,
    (∀ c : Int, 1 ≤ c → c ≤ 25 →
      Int.tmod (Int.tmod (Int.tmod s.regs.SA.toInt 26 + 26) 26 * c) 26 = 1 →
      (∀ c' : Int, 1 ≤ c' → c' < c →
        Int.tmod (Int.tmod (Int.tmod s.regs.SA.toInt 26 + 26) 26 * c') 26 ≠ 1) →
      exec .sinv s = .next { s with
        regs := { s.regs with RS := BitVec.ofInt 32 c, STATUS := ⟨true, false, false, 1⟩ } }) ∧
    ((∀ c : Int, 1 ≤ c → c ≤ 25 →
        Int.tmod (Int.tmod (Int.tmod s.regs.SA.toInt 26 + 26) 26 * c) 26 ≠ 1) →
      exec .sinv s = .next { s with
        regs := { s.regs with RS := 0, STATUS := ⟨false, true, false, 1⟩ } })

/-- R72 and R74's result property, derived: SINV succeeds exactly on the units, with the unique inverse in
[1,25], and fails otherwise. -/
def Obligations.SinvSucceedsExactlyOnUnits : Prop :=
  ∀ s : State,
    (Int.gcd s.regs.SA.toInt 26 = 1 →
      ∃ x : Nat, 1 ≤ x ∧ x ≤ 25 ∧ (s.regs.SA.toInt * x) % 26 = 1 ∧
        (∀ y : Nat, 1 ≤ y → y ≤ 25 → (s.regs.SA.toInt * y) % 26 = 1 → y = x) ∧
        exec .sinv s = .next { s with
          regs := { s.regs with RS := BitVec.ofNat 32 x, STATUS := ⟨true, false, false, 1⟩ } }) ∧
    (Int.gcd s.regs.SA.toInt 26 ≠ 1 →
      exec .sinv s = .next { s with
        regs := { s.regs with RS := 0, STATUS := ⟨false, true, false, 1⟩ } })

/-- R74's table and R119's remark, derived: the search equals a 26-entry lookup. -/
def Obligations.SinvEqualsLookupTable : Prop :=
  ∀ s : State, ∃ t, exec .sinv s = .next t ∧
    t.regs.RS =
      ([0, 1, 0, 9, 0, 21, 0, 15, 0, 3, 0, 19, 0, 0, 0, 7, 0, 23, 0, 11, 0, 5, 0, 17, 0, 25] :
        List Word).getD (s.regs.SA.toInt % 26).toNat 0 ∧
    (t.regs.STATUS.NOINV = true ↔
      (s.regs.SA.toInt % 26) ∈ ([0, 2, 4, 6, 8, 10, 12, 13, 14, 16, 18, 20, 22, 24] : List Int))

/-! The matrix commands (41_matrix.md). -/

/-- R75: DET, whole. -/
def Obligations.DetReturnsTruncatedRemainder : Prop :=
  ∀ s : State, exec .det s = .next { s with
    regs := { s.regs with
      RS := BitVec.ofInt 32
        (Int.tmod (s.regs.M00.toInt * s.regs.M11.toInt - s.regs.M01.toInt * s.regs.M10.toInt) 26)
      STATUS := ⟨true, false, false, 2⟩ } }

/-- R76, derived (the spec marks the truncating sign as general knowledge and its decision D5): the range
and the sign of DET's result, and its residue. -/
def Obligations.DetRangeAndSign : Prop :=
  ∀ s : State, ∃ t, exec .det s = .next t ∧
    -25 ≤ t.regs.RS.toInt ∧ t.regs.RS.toInt ≤ 25 ∧
    (t.regs.RS.toInt < 0 ↔ s.regs.determinant < 0 ∧ ¬(26 ∣ s.regs.determinant)) ∧
    26 ∣ t.regs.RS.toInt - s.regs.determinant

/-- R78, R79: MINV, whole, with norm26 written out as R12 defines it; on failure only STATUS changes. -/
def Obligations.MinvScalesAdjugateByFirstInverse : Prop :=
  ∀ s : State,
    (∀ c : Int, 1 ≤ c → c ≤ 25 →
      Int.tmod (Int.tmod (Int.tmod (Int.tmod s.regs.determinant 26) 26 + 26) 26 * c) 26 = 1 →
      (∀ c' : Int, 1 ≤ c' → c' < c →
        Int.tmod (Int.tmod (Int.tmod (Int.tmod s.regs.determinant 26) 26 + 26) 26 * c') 26 ≠ 1) →
      exec .minv s = .next { s with
        regs := { s.regs with
          RM00 := BitVec.ofInt 32 (Int.tmod (Int.tmod (c * s.regs.M11.toInt) 26 + 26) 26)
          RM01 := BitVec.ofInt 32 (Int.tmod (Int.tmod (c * -s.regs.M01.toInt) 26 + 26) 26)
          RM10 := BitVec.ofInt 32 (Int.tmod (Int.tmod (c * -s.regs.M10.toInt) 26 + 26) 26)
          RM11 := BitVec.ofInt 32 (Int.tmod (Int.tmod (c * s.regs.M00.toInt) 26 + 26) 26)
          STATUS := ⟨true, false, false, 3⟩ } }) ∧
    ((∀ c : Int, 1 ≤ c → c ≤ 25 →
        Int.tmod (Int.tmod (Int.tmod (Int.tmod s.regs.determinant 26) 26 + 26) 26 * c) 26 ≠ 1) →
      exec .minv s = .next { s with
        regs := { s.regs with STATUS := ⟨false, true, false, 3⟩ } })

/-- R80: MINV fails exactly when the determinant is no unit (its residue even or 13), and then only STATUS
changes. -/
def Obligations.MinvFailsExactlyOnNonUnits : Prop :=
  ∀ s : State,
    (Int.gcd s.regs.determinant 26 ≠ 1 ↔
      s.regs.determinant % 26 % 2 = 0 ∨ s.regs.determinant % 26 = 13) ∧
    (Int.gcd s.regs.determinant 26 ≠ 1 →
      exec .minv s = .next { s with
        regs := { s.regs with STATUS := ⟨false, true, false, 3⟩ } }) ∧
    (Int.gcd s.regs.determinant 26 = 1 →
      ∃ t, exec .minv s = .next t ∧ t.regs.STATUS = ⟨true, false, false, 3⟩)

/-- R82 (a) and R81, derived: R·N ≡ N·R ≡ I (mod 26), with every entry of R in [0,25]. -/
def Obligations.MinvIsTwoSidedInverse : Prop :=
  ∀ s : State, Int.gcd s.regs.determinant 26 = 1 →
    ∃ t, exec .minv s = .next t ∧ t.regs.STATUS = ⟨true, false, false, 3⟩ ∧
      (t.regs.RM00.toNat ≤ 25 ∧ t.regs.RM01.toNat ≤ 25 ∧
        t.regs.RM10.toNat ≤ 25 ∧ t.regs.RM11.toNat ≤ 25) ∧
      (t.regs.RM00.toInt * s.regs.M00.toInt + t.regs.RM01.toInt * s.regs.M10.toInt) % 26 = 1 ∧
      (t.regs.RM00.toInt * s.regs.M01.toInt + t.regs.RM01.toInt * s.regs.M11.toInt) % 26 = 0 ∧
      (t.regs.RM10.toInt * s.regs.M00.toInt + t.regs.RM11.toInt * s.regs.M10.toInt) % 26 = 0 ∧
      (t.regs.RM10.toInt * s.regs.M01.toInt + t.regs.RM11.toInt * s.regs.M11.toInt) % 26 = 1 ∧
      (s.regs.M00.toInt * t.regs.RM00.toInt + s.regs.M01.toInt * t.regs.RM10.toInt) % 26 = 1 ∧
      (s.regs.M00.toInt * t.regs.RM01.toInt + s.regs.M01.toInt * t.regs.RM11.toInt) % 26 = 0 ∧
      (s.regs.M10.toInt * t.regs.RM00.toInt + s.regs.M11.toInt * t.regs.RM10.toInt) % 26 = 0 ∧
      (s.regs.M10.toInt * t.regs.RM01.toInt + s.regs.M11.toInt * t.regs.RM11.toInt) % 26 = 1

/-- R82 (b), derived: MINV on its own result succeeds and returns N, the residues of K. -/
def Obligations.MinvOfMinvReturnsResidues : Prop :=
  ∀ s : State, Int.gcd s.regs.determinant 26 = 1 →
    ∃ t u, exec .minv s = .next t ∧ exec .minv t.copyMatrix = .next u ∧
      u.regs.STATUS = ⟨true, false, false, 3⟩ ∧
      (u.regs.RM00.toNat : Int) = s.regs.M00.toInt % 26 ∧
      (u.regs.RM01.toNat : Int) = s.regs.M01.toInt % 26 ∧
      (u.regs.RM10.toNat : Int) = s.regs.M10.toInt % 26 ∧
      (u.regs.RM11.toNat : Int) = s.regs.M11.toInt % 26

/-- R82 (c), derived: MVMUL with K, then MVMUL with MINV's result, returns the residues of v. -/
def Obligations.EncryptThenDecryptReturnsResidues : Prop :=
  ∀ s : State, Int.gcd s.regs.determinant 26 = 1 →
    ∃ t u x, exec .minv s = .next t ∧ exec .mvmul t = .next u ∧
      exec .mvmul u.copyMatrix.copyVector = .next x ∧
      (x.regs.RV0.toNat : Int) = s.regs.V0.toInt % 26 ∧
      (x.regs.RV1.toNat : Int) = s.regs.V1.toInt % 26

/-- R85: MVMUL, whole, with norm26 written out as R12 defines it. -/
def Obligations.MvmulReturnsNormalisedProduct : Prop :=
  ∀ s : State, exec .mvmul s = .next { s with
    regs := { s.regs with
      RV0 := BitVec.ofInt 32 (Int.tmod (Int.tmod
        (s.regs.M00.toInt * s.regs.V0.toInt + s.regs.M01.toInt * s.regs.V1.toInt) 26 + 26) 26)
      RV1 := BitVec.ofInt 32 (Int.tmod (Int.tmod
        (s.regs.M10.toInt * s.regs.V0.toInt + s.regs.M11.toInt * s.regs.V1.toInt) 26 + 26) 26)
      STATUS := ⟨true, false, false, 4⟩ } }

/-- R12 at MVMUL, derived: the results are the Euclidean residues of the exact sums, in [0,25]. -/
def Obligations.MvmulResultsAreResidues : Prop :=
  ∀ s : State, ∃ t, exec .mvmul s = .next t ∧
    (t.regs.RV0.toNat : Int) =
      (s.regs.M00.toInt * s.regs.V0.toInt + s.regs.M01.toInt * s.regs.V1.toInt) % 26 ∧
    (t.regs.RV1.toNat : Int) =
      (s.regs.M10.toInt * s.regs.V0.toInt + s.regs.M11.toInt * s.regs.V1.toInt) % 26 ∧
    t.regs.RV0.toNat ≤ 25 ∧ t.regs.RV1.toNat ≤ 25

/-- R88, derived: two MVMULs with matrix operand A and the columns of B give the product A·B, each entry
the residue of its sum; and the product then acts on a vector as B followed by A. -/
def Obligations.TwoMvmulsMultiplyMatrices : Prop :=
  ∀ (s : State) (b00 b01 b10 b11 v0 v1 : Word),
    ∃ t u x y z : State,
      exec .mvmul { s with regs := { s.regs with V0 := b00, V1 := b10 } } = .next t ∧
      exec .mvmul { s with regs := { s.regs with V0 := b01, V1 := b11 } } = .next u ∧
      s.regs.matrix.mul ⟨b00.toInt, b01.toInt, b10.toInt, b11.toInt⟩ =
        ⟨t.regs.RV0.toInt, u.regs.RV0.toInt, t.regs.RV1.toInt, u.regs.RV1.toInt⟩ ∧
      exec .mvmul { s with regs := { s.regs with
        M00 := t.regs.RV0, M01 := u.regs.RV0, M10 := t.regs.RV1, M11 := u.regs.RV1,
        V0 := v0, V1 := v1 } } = .next x ∧
      exec .mvmul { s with regs := { s.regs with
        M00 := b00, M01 := b01, M10 := b10, M11 := b11, V0 := v0, V1 := v1 } } = .next y ∧
      exec .mvmul { s with regs := { s.regs with V0 := y.regs.RV0, V1 := y.regs.RV1 } } = .next z ∧
      z.regs.RV0 = x.regs.RV0 ∧ z.regs.RV1 = x.regs.RV1

/-! All commands (10_state.md R17, R29, R35; 30_encoding.md R62; 41_matrix.md R81). -/

/-- R29's last column and R17, derived: what each command leaves unchanged. Every register but STATUS and
the command's own results reads as before; so do the operands, the reset input, the host's list and the
observation. The unit has no memory and no program counter. -/
def Obligations.CommandFrame : Prop :=
  ∀ (i : Instr) (s t : State), exec i s = .next t →
    s.regs.SameOperands t.regs ∧ t.resetAsserted = s.resetAsserted ∧
    t.pending = s.pending ∧ t.observed = s.observed ∧
    (i ≠ .sinv → i ≠ .det → t.regs.RS = s.regs.RS) ∧
    (i ≠ .mvmul → t.regs.RV0 = s.regs.RV0 ∧ t.regs.RV1 = s.regs.RV1) ∧
    ((i ≠ .minv ∨ t.regs.STATUS.OK = false) →
      t.regs.RM00 = s.regs.RM00 ∧ t.regs.RM01 = s.regs.RM01 ∧
      t.regs.RM10 = s.regs.RM10 ∧ t.regs.RM11 = s.regs.RM11)

/-- R35, derived: no command reads STATUS; whatever STATUS held, the outcome is the same. -/
def Obligations.NoCommandReadsStatus : Prop :=
  ∀ (i : Instr) (s : State) (st : Status),
    exec i { s with regs := { s.regs with STATUS := st } } = exec i s

/-- R62, derived: each command's results depend only on the operand registers R62 names for it. -/
def Obligations.CommandsReadOnlyTheirOperands : Prop :=
  ∀ s s' : State,
    (s'.regs.SA = s.regs.SA →
      ∃ t t', exec .sinv s = .next t ∧ exec .sinv s' = .next t' ∧
        t'.regs.RS = t.regs.RS ∧ t'.regs.STATUS = t.regs.STATUS) ∧
    (s'.regs.M00 = s.regs.M00 → s'.regs.M01 = s.regs.M01 →
      s'.regs.M10 = s.regs.M10 → s'.regs.M11 = s.regs.M11 →
      (∃ t t', exec .det s = .next t ∧ exec .det s' = .next t' ∧
        t'.regs.RS = t.regs.RS ∧ t'.regs.STATUS = t.regs.STATUS) ∧
      (∃ t t', exec .minv s = .next t ∧ exec .minv s' = .next t' ∧
        t'.regs.STATUS = t.regs.STATUS ∧
        (t.regs.STATUS.OK = true →
          t'.regs.RM00 = t.regs.RM00 ∧ t'.regs.RM01 = t.regs.RM01 ∧
          t'.regs.RM10 = t.regs.RM10 ∧ t'.regs.RM11 = t.regs.RM11)) ∧
      (s'.regs.V0 = s.regs.V0 → s'.regs.V1 = s.regs.V1 →
        ∃ t t', exec .mvmul s = .next t ∧ exec .mvmul s' = .next t' ∧
          t'.regs.RV0 = t.regs.RV0 ∧ t'.regs.RV1 = t.regs.RV1 ∧
          t'.regs.STATUS = t.regs.STATUS))

/-- R81 (MINV), R71 and R74 (SINV), R75 and R77 (DET), R85 and R87 (MVMUL), derived: adding multiples
of 26 to the operands changes no result of SINV, MINV and MVMUL, and DET's result only by a multiple of 26. -/
def Obligations.ResultsDependOnlyOnResidues : Prop :=
  ∀ s s' : State, s.regs.SameResults s'.regs →
    (26 : Int) ∣ s'.regs.M00.toInt - s.regs.M00.toInt → (26 : Int) ∣ s'.regs.M01.toInt - s.regs.M01.toInt →
    (26 : Int) ∣ s'.regs.M10.toInt - s.regs.M10.toInt → (26 : Int) ∣ s'.regs.M11.toInt - s.regs.M11.toInt →
    (26 : Int) ∣ s'.regs.V0.toInt - s.regs.V0.toInt → (26 : Int) ∣ s'.regs.V1.toInt - s.regs.V1.toInt →
    (26 : Int) ∣ s'.regs.SA.toInt - s.regs.SA.toInt →
    (∀ i : Instr, i ≠ .det →
      ∃ t t', exec i s = .next t ∧ exec i s' = .next t' ∧ t.regs.SameResults t'.regs) ∧
    ∃ t t', exec .det s = .next t ∧ exec .det s' = .next t' ∧
      (26 : Int) ∣ t'.regs.RS.toInt - t.regs.RS.toInt

/-! Errors and hazards (60_exceptions.md, 70_reset_and_hazards.md). -/

/-- R103 and R100, derived: after an illegal word, or after a SINV or MINV that failed, the next command
leaves the registers it would have left without it (after a failed SINV, all but RS). -/
def Obligations.ErrorsLeaveNoStickyState : Prop :=
  ∀ (s : State) (w w' : Word) (rest : List HostEvent), s.resetAsserted = false →
    ∃ t u v : State,
      step { s with pending := commandWrite w :: commandWrite w' :: rest } = .next t ∧
      step t = .next u ∧
      step { s with pending := commandWrite w' :: rest } = .next v ∧
      (t.regs.STATUS.OK = false → w ≠ 1 → u.regs = v.regs) ∧
      (t.regs.STATUS.OK = false → w = 1 →
        { u.regs with RS := 0 } = ({ v.regs with RS := 0 } : Registers))

/-- R117 and R29, derived: whatever results and STATUS a state holds, every step keeps them whose event,
if there is one, neither writes CMD nor resets the unit. -/
def Obligations.ResultsKeptByEveryStep : Prop :=
  ∀ (r : Registers) (s t : State), r.SameResults s.regs → step s = .next t →
    (∀ e ∈ s.pending.head?, e.writes .CMD = false ∧ e.resets = false) →
    r.SameResults t.regs

/-- R117, derived: results and STATUS keep what the last command left through any run of events that
neither write CMD nor reset the unit, and a read then returns it. -/
def Obligations.ResultsKeptUntilNextCommand : Prop :=
  ∀ (s : State) (r : Reg) (es : List HostEvent),
    s.resetAsserted = false → r.rights = .readOnly → hostObeys false es = true →
    (∀ e ∈ es, e.writes .CMD = false ∧ e.resets = false) →
    ∃ t : State, core.run (es.length + 1) { s with pending := es ++ [readOf r] } = .next t ∧
      s.regs.SameResults t.regs ∧ t.pending = [] ∧
      t.observed.getLast? = some (.word (s.regs.get r))

/-! Host notation (30_encoding.md R68, R69). -/

/-- R69 at INVS, derived: the four accesses of `INVS a` observe STATUS and RS as SINV gives them. -/
def Obligations.InvsObservesInverse : Prop :=
  ∀ (s : State) (a : Word), s.resetAsserted = false →
    ∃ t : State,
      core.run 4 { s with pending := eventsOf (PseudoCommand.INVS (.hex a)).expand } = .next t ∧
      t.pending = [] ∧ t.regs.SA = a ∧
      (Int.gcd a.toInt 26 ≠ 1 → t.observed = s.observed ++ [.word 0x12, .word 0]) ∧
      (Int.gcd a.toInt 26 = 1 →
        ∃ x : Nat, x ≤ 25 ∧ (a.toInt * x) % 26 = 1 ∧
          t.observed = s.observed ++ [.word 0x11, .word (BitVec.ofNat 32 x)])

/-- R68 and R91, derived (what an IF with no RD before it does is log 13): labels and IF lines are no access
of the unit, and IF takes its branch exactly when the field of the last RD of STATUS has the value. -/
def Obligations.BranchLinesAreNoAccess : Prop :=
  ∀ (program : List HostLine) (h : HostRun) (f : StatusField) (n k : Nat) (target : String) (w : Word),
    hostLine program (.label target) h = .next { h with line := h.line + 1 } ∧
    (h.lastStatus = some w → findLabel program target = some k →
      hostLine program (.ifGoto f n target) h =
        .next { h with line := if f.of w = n then k else h.line + 1 })
end

