-- ==== Sys2Proof/Laws/Arith.lean ====
section
/-! SUPPORT. What the integer arithmetic of the unit computes, said once (00_scope.md R9 to R13). -/

namespace Sys2Proof.Machine

/-- R11: `rem_t` is the truncating remainder. -/
theorem remT_eq_tmod (x m : Int) : remT x m = Int.tmod x m := by
  unfold remT; have := Int.mul_tdiv_add_tmod x m; omega

/-- R12: `norm26` is the Euclidean residue. -/
theorem norm26_eq_emod (x : Int) : norm26 x = x % 26 := by
  have h1 := Int.mul_tdiv_add_tmod x 26
  have h2 : x.tmod 26 < 26 := Int.tmod_lt_of_pos x (by omega)
  have h3 : -26 < x.tmod 26 := by
    have := Int.lt_tmod_of_pos x (show (0 : Int) < 26 by omega)
    omega
  have h4 : norm26 x = (x.tmod 26 + 26).tmod 26 := by
    unfold norm26; rw [remT_eq_tmod, remT_eq_tmod]
  rw [h4, Int.tmod_eq_emod_of_nonneg (by omega)]
  omega

theorem norm26_nonneg (x : Int) : 0 ≤ norm26 x := by rw [norm26_eq_emod]; omega

theorem norm26_lt (x : Int) : norm26 x < 26 := by rw [norm26_eq_emod]; omega

/-- R9: reading back an encoded integer of 32-bit range. -/
theorem sint32_bits32 (v : Int) (h1 : -(2 ^ 31) ≤ v) (h2 : v < 2 ^ 31) : sint32 (bits32 v) = v := by
  unfold sint32 bits32
  rw [BitVec.toInt_ofInt]
  apply Int.bmod_eq_of_le <;> omega

/-- R9: a normalised value is zero-extended. -/
theorem sint32_bits32_norm26 (x : Int) : sint32 (bits32 (norm26 x)) = x % 26 := by
  have h1 := norm26_nonneg x
  have h2 := norm26_lt x
  rw [sint32_bits32 _ (by omega) (by omega), norm26_eq_emod]

theorem bits32_toNat (v : Int) (h1 : 0 ≤ v) (h2 : v < 2 ^ 31) : (bits32 v).toNat = v.toNat := by
  unfold bits32
  rw [BitVec.toNat_ofInt]
  congr 1
  apply Int.emod_eq_of_lt <;> omega

/-- The search looks only at the residue (40_scalar.md R71). -/
theorem scalarInverse_emod (a : Int) : scalarInverse a = scalarInverse (a % 26) := by
  unfold scalarInverse
  simp only [norm26_eq_emod, Int.emod_emod_of_dvd, dvd_refl]

/-- A property of the search that holds on the 26 residues holds of every integer. -/
theorem scalarInverse_residues (P : Int → Option Int → Prop)
    (h : ∀ n : Fin 26, P (n.val : Int) (scalarInverse (n.val : Int))) (a : Int) :
    P (a % 26) (scalarInverse a) := by
  have h1 : 0 ≤ a % 26 := by omega
  have h2 : a % 26 < 26 := by omega
  have := h ⟨(a % 26).toNat, by omega⟩
  rw [scalarInverse_emod]
  simpa [Int.toNat_of_nonneg h1] using this

/-- What a successful search returns (R71, R74): a candidate, and an inverse. -/
theorem scalarInverse_some (a c : Int) (h : scalarInverse a = some c) :
    1 ≤ c ∧ c ≤ 25 ∧ (a * c) % 26 = 1 := by
  have key := scalarInverse_residues
    (fun n o => ∀ c, o = some c → 1 ≤ c ∧ c ≤ 25 ∧ (n * c) % 26 = 1) (by decide) a c h
  refine ⟨key.1, key.2.1, ?_⟩
  rw [← key.2.2, Int.mul_emod, Int.mul_emod (a % 26) c, Int.emod_emod_of_dvd _ (dvd_refl _)]

/-- When the search succeeds (R72): exactly on the units. -/
theorem scalarInverse_isSome (a : Int) : (scalarInverse a).isSome ↔ Int.gcd a 26 = 1 := by
  have key := scalarInverse_residues
    (fun n o => o.isSome ↔ Int.gcd n 26 = 1) (by decide) a
  have hg : Int.gcd (a % 26) 26 = Int.gcd a 26 := by
    conv_rhs => rw [← Int.mul_ediv_add_emod a 26]
    simp
  rwa [hg] at key

/-- R13: a unit has gcd 1 with 26, normalised or not, and the search succeeds exactly on the units. -/
theorem scalarInverse_isSome_eq_isUnit26 (a : Int) : (scalarInverse a).isSome = isUnit26 a := by
  have h : (scalarInverse (norm26 a)).isSome ↔ Int.gcd (norm26 a) 26 = 1 := scalarInverse_isSome _
  rw [norm26_eq_emod, ← scalarInverse_emod] at h
  rw [Bool.eq_iff_iff, h, isUnit26, norm26_eq_emod, beq_iff_eq]

theorem scalarInverse_none (a : Int) : scalarInverse a = none ↔ Int.gcd a 26 ≠ 1 := by
  rw [← Option.not_isSome_iff_eq_none, scalarInverse_isSome]

/-- The reduced determinant has the determinant's residue (41_matrix.md R79). -/
theorem detRem_emod (K : Mat2) : K.detRem % 26 = K.det % 26 := by
  have h := Int.mul_tdiv_add_tmod K.det 26
  have h1 : K.detRem = K.det.tmod 26 := remT_eq_tmod _ _
  omega

/-- MINV's inner search sees only the determinant's residue (R79). -/
theorem scalarInverse_detRem (K : Mat2) : scalarInverse K.detRem = scalarInverse K.det := by
  rw [scalarInverse_emod, detRem_emod, ← scalarInverse_emod]

end Sys2Proof.Machine
end

