-- ==== Sys2Proof/Laws/State.lean ====
section
/-! SUPPORT. One lemma per field per update of the state record and of the register record. -/

namespace Sys2Proof.Machine

section StateFields

variable (s : State)

@[simp] theorem withRegs_regs (r : Registers) : (s.withRegs r).regs = r := rfl
@[simp] theorem withRegs_resetAsserted (r : Registers) : (s.withRegs r).resetAsserted = s.resetAsserted := rfl
@[simp] theorem withRegs_pending (r : Registers) : (s.withRegs r).pending = s.pending := rfl
@[simp] theorem withRegs_observed (r : Registers) : (s.withRegs r).observed = s.observed := rfl

@[simp] theorem observe_regs (x : Response) : (s.observe x).regs = s.regs := rfl
@[simp] theorem observe_resetAsserted (x : Response) : (s.observe x).resetAsserted = s.resetAsserted := rfl
@[simp] theorem observe_pending (x : Response) : (s.observe x).pending = s.pending := rfl
@[simp] theorem observe_observed (x : Response) : (s.observe x).observed = s.observed ++ [x] := rfl

@[simp] theorem busError_regs (off : Nat) : (s.busError off).regs = s.regs := rfl
@[simp] theorem busError_resetAsserted (off : Nat) : (s.busError off).resetAsserted = s.resetAsserted := rfl
@[simp] theorem busError_pending (off : Nat) : (s.busError off).pending = s.pending := rfl
@[simp] theorem busError_observed (off : Nat) :
    (s.busError off).observed = s.observed ++ [.busError off] := rfl

@[simp] theorem powerCycle_regs : s.powerCycle.regs = Registers.reset := rfl
@[simp] theorem powerCycle_resetAsserted : s.powerCycle.resetAsserted = true := rfl
@[simp] theorem powerCycle_pending : s.powerCycle.pending = s.pending := rfl
@[simp] theorem powerCycle_observed : s.powerCycle.observed = s.observed := rfl

@[simp] theorem driveReset_pending (b : Bool) : (s.driveReset b).pending = s.pending := by
  unfold State.driveReset; split <;> rfl
@[simp] theorem driveReset_observed (b : Bool) : (s.driveReset b).observed = s.observed := by
  unfold State.driveReset; split <;> rfl
@[simp] theorem driveReset_resetAsserted (b : Bool) : (s.driveReset b).resetAsserted = b := by
  unfold State.driveReset; split <;> simp_all

end StateFields

section RegisterFields

variable (r : Registers)

@[simp] theorem setStatus_M00 (st : Status) : (r.setStatus st).M00 = r.M00 := rfl
@[simp] theorem setStatus_M01 (st : Status) : (r.setStatus st).M01 = r.M01 := rfl
@[simp] theorem setStatus_M10 (st : Status) : (r.setStatus st).M10 = r.M10 := rfl
@[simp] theorem setStatus_M11 (st : Status) : (r.setStatus st).M11 = r.M11 := rfl
@[simp] theorem setStatus_V0 (st : Status) : (r.setStatus st).V0 = r.V0 := rfl
@[simp] theorem setStatus_V1 (st : Status) : (r.setStatus st).V1 = r.V1 := rfl
@[simp] theorem setStatus_SA (st : Status) : (r.setStatus st).SA = r.SA := rfl
@[simp] theorem setStatus_STATUS (st : Status) : (r.setStatus st).STATUS = st := rfl
@[simp] theorem setStatus_RS (st : Status) : (r.setStatus st).RS = r.RS := rfl
@[simp] theorem setStatus_RV0 (st : Status) : (r.setStatus st).RV0 = r.RV0 := rfl
@[simp] theorem setStatus_RV1 (st : Status) : (r.setStatus st).RV1 = r.RV1 := rfl
@[simp] theorem setStatus_RM00 (st : Status) : (r.setStatus st).RM00 = r.RM00 := rfl
@[simp] theorem setStatus_RM01 (st : Status) : (r.setStatus st).RM01 = r.RM01 := rfl
@[simp] theorem setStatus_RM10 (st : Status) : (r.setStatus st).RM10 = r.RM10 := rfl
@[simp] theorem setStatus_RM11 (st : Status) : (r.setStatus st).RM11 = r.RM11 := rfl

@[simp] theorem setScalarResult_M00 (v : Int) : (r.setScalarResult v).M00 = r.M00 := rfl
@[simp] theorem setScalarResult_M01 (v : Int) : (r.setScalarResult v).M01 = r.M01 := rfl
@[simp] theorem setScalarResult_M10 (v : Int) : (r.setScalarResult v).M10 = r.M10 := rfl
@[simp] theorem setScalarResult_M11 (v : Int) : (r.setScalarResult v).M11 = r.M11 := rfl
@[simp] theorem setScalarResult_V0 (v : Int) : (r.setScalarResult v).V0 = r.V0 := rfl
@[simp] theorem setScalarResult_V1 (v : Int) : (r.setScalarResult v).V1 = r.V1 := rfl
@[simp] theorem setScalarResult_SA (v : Int) : (r.setScalarResult v).SA = r.SA := rfl
@[simp] theorem setScalarResult_STATUS (v : Int) : (r.setScalarResult v).STATUS = r.STATUS := rfl
@[simp] theorem setScalarResult_RS (v : Int) : (r.setScalarResult v).RS = bits32 v := rfl
@[simp] theorem setScalarResult_RV0 (v : Int) : (r.setScalarResult v).RV0 = r.RV0 := rfl
@[simp] theorem setScalarResult_RV1 (v : Int) : (r.setScalarResult v).RV1 = r.RV1 := rfl
@[simp] theorem setScalarResult_RM00 (v : Int) : (r.setScalarResult v).RM00 = r.RM00 := rfl
@[simp] theorem setScalarResult_RM01 (v : Int) : (r.setScalarResult v).RM01 = r.RM01 := rfl
@[simp] theorem setScalarResult_RM10 (v : Int) : (r.setScalarResult v).RM10 = r.RM10 := rfl
@[simp] theorem setScalarResult_RM11 (v : Int) : (r.setScalarResult v).RM11 = r.RM11 := rfl

@[simp] theorem setVectorResult_M00 (y : Vec2) : (r.setVectorResult y).M00 = r.M00 := rfl
@[simp] theorem setVectorResult_M01 (y : Vec2) : (r.setVectorResult y).M01 = r.M01 := rfl
@[simp] theorem setVectorResult_M10 (y : Vec2) : (r.setVectorResult y).M10 = r.M10 := rfl
@[simp] theorem setVectorResult_M11 (y : Vec2) : (r.setVectorResult y).M11 = r.M11 := rfl
@[simp] theorem setVectorResult_V0 (y : Vec2) : (r.setVectorResult y).V0 = r.V0 := rfl
@[simp] theorem setVectorResult_V1 (y : Vec2) : (r.setVectorResult y).V1 = r.V1 := rfl
@[simp] theorem setVectorResult_SA (y : Vec2) : (r.setVectorResult y).SA = r.SA := rfl
@[simp] theorem setVectorResult_STATUS (y : Vec2) : (r.setVectorResult y).STATUS = r.STATUS := rfl
@[simp] theorem setVectorResult_RS (y : Vec2) : (r.setVectorResult y).RS = r.RS := rfl
@[simp] theorem setVectorResult_RV0 (y : Vec2) : (r.setVectorResult y).RV0 = bits32 y.v0 := rfl
@[simp] theorem setVectorResult_RV1 (y : Vec2) : (r.setVectorResult y).RV1 = bits32 y.v1 := rfl
@[simp] theorem setVectorResult_RM00 (y : Vec2) : (r.setVectorResult y).RM00 = r.RM00 := rfl
@[simp] theorem setVectorResult_RM01 (y : Vec2) : (r.setVectorResult y).RM01 = r.RM01 := rfl
@[simp] theorem setVectorResult_RM10 (y : Vec2) : (r.setVectorResult y).RM10 = r.RM10 := rfl
@[simp] theorem setVectorResult_RM11 (y : Vec2) : (r.setVectorResult y).RM11 = r.RM11 := rfl

@[simp] theorem setMatrixResult_M00 (R : Mat2) : (r.setMatrixResult R).M00 = r.M00 := rfl
@[simp] theorem setMatrixResult_M01 (R : Mat2) : (r.setMatrixResult R).M01 = r.M01 := rfl
@[simp] theorem setMatrixResult_M10 (R : Mat2) : (r.setMatrixResult R).M10 = r.M10 := rfl
@[simp] theorem setMatrixResult_M11 (R : Mat2) : (r.setMatrixResult R).M11 = r.M11 := rfl
@[simp] theorem setMatrixResult_V0 (R : Mat2) : (r.setMatrixResult R).V0 = r.V0 := rfl
@[simp] theorem setMatrixResult_V1 (R : Mat2) : (r.setMatrixResult R).V1 = r.V1 := rfl
@[simp] theorem setMatrixResult_SA (R : Mat2) : (r.setMatrixResult R).SA = r.SA := rfl
@[simp] theorem setMatrixResult_STATUS (R : Mat2) : (r.setMatrixResult R).STATUS = r.STATUS := rfl
@[simp] theorem setMatrixResult_RS (R : Mat2) : (r.setMatrixResult R).RS = r.RS := rfl
@[simp] theorem setMatrixResult_RV0 (R : Mat2) : (r.setMatrixResult R).RV0 = r.RV0 := rfl
@[simp] theorem setMatrixResult_RV1 (R : Mat2) : (r.setMatrixResult R).RV1 = r.RV1 := rfl
@[simp] theorem setMatrixResult_RM00 (R : Mat2) : (r.setMatrixResult R).RM00 = bits32 R.k00 := rfl
@[simp] theorem setMatrixResult_RM01 (R : Mat2) : (r.setMatrixResult R).RM01 = bits32 R.k01 := rfl
@[simp] theorem setMatrixResult_RM10 (R : Mat2) : (r.setMatrixResult R).RM10 = bits32 R.k10 := rfl
@[simp] theorem setMatrixResult_RM11 (R : Mat2) : (r.setMatrixResult R).RM11 = bits32 R.k11 := rfl

/-- The host's write of a register changes that register and no other (R44, R33). -/
theorem setOperand_get (name other : Reg) (w : Word) (h : name.rights = .readWrite) :
    (r.setOperand name w).get other = if other = name then w else r.get other := by
  cases name <;> cases other <;> first | rfl | cases h

/-- The host's write never reaches a result register or STATUS (R33). -/
theorem setOperand_results (name : Reg) (w : Word) :
    (r.setOperand name w).STATUS = r.STATUS ∧ (r.setOperand name w).RS = r.RS ∧
      (r.setOperand name w).RV0 = r.RV0 ∧ (r.setOperand name w).RV1 = r.RV1 ∧
      (r.setOperand name w).RM00 = r.RM00 ∧ (r.setOperand name w).RM01 = r.RM01 ∧
      (r.setOperand name w).RM10 = r.RM10 ∧ (r.setOperand name w).RM11 = r.RM11 := by
  cases name <;> simp [Registers.setOperand]

end RegisterFields

end Sys2Proof.Machine
end

