-- ==== Sys2Proof/Laws/Exec.lean ====
section
/-! SUPPORT. Every command, and every command word, completes, and is a function of the registers alone
(70_reset_and_hazards.md R114, R120). -/

namespace Sys2Proof.Machine

/-- What a command does to the registers. -/
def commandRegs (i : Instr) (r : Registers) : Registers :=
  match i with
  | .nop => nopRegs r
  | .sinv => sinvRegs r
  | .det => detRegs r
  | .minv => minvRegs r
  | .mvmul => mvmulRegs r

/-- What a command word does to the registers (30_encoding.md R61). -/
def wordRegs (w : Word) (r : Registers) : Registers :=
  match decode w with
  | .ok i => commandRegs i r
  | .error _ => r.setStatus (Status.illegalWord w)

/-- Every command completes, changing registers only. -/
theorem exec_eq (i : Instr) (s : State) : exec i s = .next (s.withRegs (commandRegs i s.regs)) := by
  cases i <;> rfl

/-- Every command word completes, changing registers only. -/
theorem executeWord_eq (w : Word) (s : State) :
    executeWord w s = .next (s.withRegs (wordRegs w s.regs)) := by
  unfold executeWord wordRegs
  split <;> simp [exec_eq, illegalCommand, complete, *]

/-- SINV on a unit (40_scalar.md R71). -/
theorem sinvRegs_some (r : Registers) (c : Int) (h : scalarInverse r.scalar = some c) :
    sinvRegs r = (r.setScalarResult c).setStatus (Status.success 1) := by
  unfold sinvRegs; rw [h]

/-- SINV on a non-unit (40_scalar.md R73). -/
theorem sinvRegs_none (r : Registers) (h : scalarInverse r.scalar = none) :
    sinvRegs r = (r.setScalarResult 0).setStatus (Status.notInvertible 1) := by
  unfold sinvRegs; rw [h]

/-- MINV when the determinant has an inverse (41_matrix.md R78). -/
theorem minvRegs_some (r : Registers) (c : Int) (h : scalarInverse r.matrix.det = some c) :
    minvRegs r = (r.setMatrixResult (r.matrix.adj.scale c).norm).setStatus (Status.success 3) := by
  unfold minvRegs Mat2.inverse; rw [scalarInverse_detRem, h]; rfl

/-- MINV when the determinant has none (41_matrix.md R80). -/
theorem minvRegs_none (r : Registers) (h : scalarInverse r.matrix.det = none) :
    minvRegs r = r.setStatus (Status.notInvertible 3) := by
  unfold minvRegs Mat2.inverse; rw [scalarInverse_detRem, h]; rfl

end Sys2Proof.Machine
end

