-- ==== Sys2Proof/Laws/Ops.lean ====
section
/-! SUPPORT. The register window and the byte lanes, said once (10_state.md R16; 20_memory.md R47). -/

namespace Sys2Proof

/-- R47: the lanes carry the word. -/
@[simp] theorem wordOfLanes_lanesOfWord (w : Word) : wordOfLanes (lanesOfWord w) = w := by
  apply BitVec.eq_of_getLsbD_eq
  intro i hi
  simp only [lanesOfWord, wordOfLanes, BitVec.getLsbD_or, BitVec.getLsbD_shiftLeft,
    BitVec.getLsbD_setWidth, BitVec.getLsbD_extractLsb']
  interval_cases i <;> simp

@[simp] theorem lanesOfWord_length (w : Word) : (lanesOfWord w).length = 4 := rfl

/-- The lanes of a written word decode as the word does. -/
theorem decodeBytes_lanesOfWord (w : Word) : decodeBytes (lanesOfWord w) = decode w := by
  simp [decodeBytes]

namespace Machine

/-- R16: every register stands at its offset. -/
@[simp] theorem atOffset_offset (r : Reg) : Reg.atOffset r.offset = some r := by
  cases r <;> rfl

/-- R16: what stands at an offset is the register of that offset. -/
theorem offset_of_atOffset (off : Nat) (r : Reg) (h : Reg.atOffset off = some r) : r.offset = off := by
  have := List.find?_some h
  simpa using this

/-- R34: no register stands above 0x3C. -/
theorem atOffset_reserved (off : Nat) (h : 0x40 ≤ off) : Reg.atOffset off = none := by
  refine List.find?_eq_none.mpr fun r _ => ?_
  have : r.offset < 0x40 := by cases r <;> decide
  simp; omega

theorem offset_lt (r : Reg) : r.offset < 128 := by cases r <;> decide

theorem offset_aligned (r : Reg) : r.offset % 4 = 0 := by cases r <;> rfl

/-- R42: an access inside the window. -/
theorem windowOffset_eq (a : Access) (off : Nat) (h : a.off = off) (h' : off < 128) :
    a.windowOffset = some off := by
  simp [Access.windowOffset, h, Config.windowBytes, h']

/-- R42: an access the window takes starts at an offset below 128. -/
theorem windowOffset_some (a : Access) (off : Nat) (h : a.windowOffset = some off) :
    a.off = off ∧ off < 128 := by
  unfold Access.windowOffset Config.windowBytes at h
  split at h
  · cases h; omega
  · cases h

end Machine

end Sys2Proof
end

