-- ==== Sys2Proof/Laws/Step.lean ====
section
/-! SUPPORT. What one step can do, said once (20_memory.md R43, R44, R49). -/

namespace Sys2Proof.Machine

/-- With no event pending the unit idles. -/
theorem step_idle (s : State) (h : s.pending = []) : step s = .next s := by
  simp [step, nextEvent, h]

/-- One step performs the oldest event. -/
theorem step_cons (s : State) (e : HostEvent) (rest : List HostEvent) (h : s.pending = e :: rest) :
    step s = performEvent e { s with pending := rest } := by
  simp [step, nextEvent, h]

/-- A register's aligned word read (R43). -/
theorem perform_readOf (r : Reg) (s : State) (h : s.resetAsserted = false) :
    performEvent (readOf r) s = .next (s.observe (.word (s.regs.get r))) := by
  have hw := windowOffset_eq (.read (r.offset : Int) 4) r.offset rfl (offset_lt r)
  simp [performEvent, readOf, performAccess, hw, h, accessWindow, Access.malformed, Access.width,
    offset_aligned, Registers.readWindow]

/-- A register's aligned word write (R44). -/
theorem perform_writeOf (r : Reg) (w : Word) (s : State) (h : s.resetAsserted = false) :
    performEvent (writeOf r w) s = writeWindow r.offset w s := by
  have hw := windowOffset_eq (.write (r.offset : Int) (lanesOfWord w)) r.offset rfl (offset_lt r)
  simp [performEvent, writeOf, performAccess, hw, h, accessWindow, Access.malformed, Access.width,
    offset_aligned]

/-- An operand register stores the word (R44). -/
theorem perform_writeOf_operand (r : Reg) (w : Word) (s : State) (h : s.resetAsserted = false)
    (hr : r.rights = .readWrite) :
    performEvent (writeOf r w) s = .next (s.withRegs (s.regs.setOperand r w)) := by
  rw [perform_writeOf r w s h]; simp [writeWindow, hr]

/-- A CMD write executes the word (R44, 30_encoding.md R61). -/
theorem perform_commandWrite (w : Word) (s : State) (h : s.resetAsserted = false) :
    performEvent (commandWrite w) s = .next (s.withRegs (wordRegs w s.regs)) := by
  rw [commandWrite, perform_writeOf .CMD w s h, ← executeWord_eq]; rfl

/-- One step on the write of a command word. -/
theorem step_commandWrite (s : State) (w : Word) (rest : List HostEvent)
    (h : s.resetAsserted = false) :
    step { s with pending := commandWrite w :: rest } =
      .next (State.withRegs { s with pending := rest } (wordRegs w s.regs)) := by
  rw [step_cons _ _ _ rfl, perform_commandWrite _ _ (by exact h)]

/-- What a well-formed access inside the window can do. -/
inductive AccessEffect (a : Access) (s : State) : State → Prop where
  /-- A read, or a bus error: one more entry of the observation. -/
  | observed (x : Response) : AccessEffect a s (s.observe x)
  /-- A write to a read-only register or a reserved slot. -/
  | ignored : AccessEffect a s s
  /-- The write of an operand register. -/
  | stored (r : Reg) (w : Word) (hr : r.rights = .readWrite)
      (hw : (HostEvent.access a).writes r = true) : AccessEffect a s (s.withRegs (s.regs.setOperand r w))
  /-- The write of a command word. -/
  | executed (w : Word) (hw : (HostEvent.access a).writes .CMD = true) :
      AccessEffect a s (s.withRegs (wordRegs w s.regs))

/-- Every access inside the window outside of reset completes, with one of these effects. -/
theorem performAccess_next (a : Access) (s : State) (h : s.resetAsserted = false)
    (hw : a.windowOffset.isSome) : ∃ t, performAccess a s = .next t ∧ AccessEffect a s t := by
  obtain ⟨off, hoff⟩ := Option.isSome_iff_exists.mp hw
  simp only [performAccess, hoff, h]
  unfold accessWindow
  by_cases hm : a.malformed off = true
  · exact ⟨_, by simp [hm]; rfl, .observed (.busError off)⟩
  · cases a with
    | read o n => exact ⟨_, by simp [hm]; rfl, .observed _⟩
    | write o lanes =>
      have ho := (windowOffset_some _ _ hoff).1
      have hlen : lanes.length = 4 := by
        simp only [Access.malformed, Access.width, Bool.or_eq_true, bne_iff_ne, ne_eq] at hm
        tauto
      simp only [hm]
      unfold writeWindow
      cases hr : Reg.atOffset off with
      | none => exact ⟨s, by simp, .ignored⟩
      | some r =>
        have hro : (HostEvent.access (.write o lanes)).writes r = true := by
          have := offset_of_atOffset _ _ hr
          simp only [Access.off] at ho
          simp [HostEvent.writes, ho, hlen, this]
        cases hk : r.rights with
        | readWrite => exact ⟨_, by simp [hk], .stored r (wordOfLanes lanes) hk hro⟩
        | readOnly => exact ⟨s, by simp [hk], .ignored⟩
        | writeOnly =>
          refine ⟨_, by simp only [hk, executeWord_eq]; simp, .executed (wordOfLanes lanes) ?_⟩
          have : r = .CMD := by cases r <;> first | rfl | cases hk
          rw [← this]; exact hro

/-- The converse: an access that completes lies inside the window, outside of reset, and has one of
these effects. -/
theorem performAccess_inv (a : Access) (s t : State) (h : performAccess a s = .next t) :
    s.resetAsserted = false ∧ a.windowOffset.isSome ∧ AccessEffect a s t := by
  have hw : a.windowOffset.isSome := by
    cases hoff : a.windowOffset with
    | none => simp [performAccess, hoff] at h
    | some off => rfl
  have hr : s.resetAsserted = false := by
    obtain ⟨off, hoff⟩ := Option.isSome_iff_exists.mp hw
    cases hs : s.resetAsserted with
    | false => rfl
    | true => simp [performAccess, hoff, hs] at h
  obtain ⟨t', ht, he⟩ := performAccess_next a s hr hw
  rw [ht] at h
  cases h
  exact ⟨hr, hw, he⟩

/-- What one step can do when it answers a next state. -/
inductive StepEffect (s : State) : State → Prop where
  | idle (h : s.pending = []) : StepEffect s s
  | access (a : Access) (rest : List HostEvent) (h : s.pending = .access a :: rest)
      (hr : s.resetAsserted = false) (hw : a.windowOffset.isSome) (t : State)
      (he : AccessEffect a { s with pending := rest } t) : StepEffect s t
  | reset (asserted : Bool) (rest : List HostEvent) (h : s.pending = .driveReset asserted :: rest) :
      StepEffect s (State.driveReset { s with pending := rest } asserted)
  | power (rest : List HostEvent) (h : s.pending = .powerCycle :: rest) :
      StepEffect s (State.powerCycle { s with pending := rest })

/-- The inversion of step: every invariant is proved from this. -/
theorem step_effect (s t : State) (h : step s = .next t) : StepEffect s t := by
  cases hp : s.pending with
  | nil => rw [step_idle s hp] at h; cases h; exact .idle hp
  | cons e rest =>
    rw [step_cons s e rest hp] at h
    cases e with
    | access a =>
      obtain ⟨hr, hw, he⟩ := performAccess_inv a _ t h
      exact .access a rest hp hr hw t he
    | driveReset b => cases h; exact .reset b rest hp
    | resetDuring a => cases h
    | powerCycle => cases h; exact .power rest hp

/-- A run of k+1 steps whose first step answers a next state is a run of k steps from there. -/
theorem run_succ (k : Nat) (s t : State) (h : step s = .next t) :
    core.run (k + 1) s = core.run k t := by
  have h' : core.step s = .next t := h
  simp only [Host.Core.run, h']

/-- Runs compose. -/
theorem run_add (m n : Nat) (s t : State) (h : core.run m s = .next t) :
    core.run (m + n) s = core.run n t := by
  induction m generalizing s with
  | zero => simp only [Host.Core.run] at h; cases h; simp
  | succ m ih =>
    rw [show m + 1 + n = m + n + 1 by omega]
    cases hs : step s with
    | next s' => rw [run_succ _ _ _ hs] at h ⊢; exact ih _ h
    | fault r => exact nomatch r
    | refused r =>
      have hs' : core.step s = .refused r := hs
      simp only [Host.Core.run, hs'] at h
      cases h

end Sys2Proof.Machine
end

