-- ==== Sys2Proof/Tests/Slice0.lean ====
section
/-! SUPPORT. Small tests, each on one step or one word, with expected values from the spec (the vectors of
95_test_vectors.md, the words of 30_encoding.md R60 and R63), the WellFormed smoke tests, and for each
statement with hypotheses a witness that meets them, clause by clause at boundary values. -/

namespace Sys2Proof.Tests

open Sys2Proof.Machine

/-- The next state of an outcome, if it is one. -/
def after (o : Host.Outcome State Fault Refusal) : Option State :=
  match o with
  | .next t => some t
  | .fault _ => none
  | .refused _ => none

/-- The refusal of an outcome, if it is one. -/
def refusal (o : Host.Outcome State Fault Refusal) : Option Refusal :=
  match o with
  | .next _ => none
  | .fault _ => none
  | .refused r => some r

/-- From reset, the operands given and one event pending. -/
def ready (m00 m01 m10 m11 v0 v1 sa : Word) (e : HostEvent) : State :=
  { State.reset with
    regs := { Registers.reset with
      M00 := m00, M01 := m01, M10 := m10, M11 := m11, V0 := v0, V1 := v1, SA := sa }
    pending := [e] }

/-- The word a register reads after one step. -/
def reads (r : Reg) (s : State) : Option Word := (after (step s)).map (fun t => t.regs.get r)

/-! Decoding: words from R60 (RSV = bits 31:4, OPC = bits 3:0) and R63. -/

theorem test_decode_nop : decode 0b00000000000000000000000000000000#32 = .ok .nop := rfl
theorem test_decode_sinv : decode 0b00000000000000000000000000000001#32 = .ok .sinv := rfl
theorem test_decode_det : decode 0b00000000000000000000000000000010#32 = .ok .det := rfl
theorem test_decode_minv : decode 0b00000000000000000000000000000011#32 = .ok .minv := rfl
theorem test_decode_mvmul : decode 0b00000000000000000000000000000100#32 = .ok .mvmul := rfl
theorem test_decode_reserved_opcode : decode 0x0000000F#32 = .error (.reservedOpcode 15) := rfl
theorem test_decode_reserved_bits : decode 0x80000003#32 = .error .reservedBitsSet := rfl
theorem test_decode_bytes : decodeBytes [0x04, 0x00, 0x00, 0x00] = .ok .mvmul := rfl
theorem test_decode_bytes_big_endian : decodeBytes [0x00, 0x00, 0x00, 0x04] = .error .reservedBitsSet := rfl
theorem test_decode_one_byte : decodeBytes [0x01] = .error .notOneWord := rfl
theorem test_decode_table_word : decodeTableWord 32 3 = some .minv := by decide

/-! Well-formedness: one refused term for each check. -/

theorem test_wf_commands : Instr.nop.wf = true := rfl
theorem test_wf_modulus_refused : modulusSupported 27 = false := rfl
theorem test_wf_value_refused : (HostValue.int (2 ^ 31)).wf = false := by decide
theorem test_wf_value_low_refused : (HostValue.int (-(2 ^ 31) - 1)).wf = false := by decide
theorem test_wf_field_value_refused :
    programWf [.label "done", .ifGoto .OK 2 "done"] = false := by decide
theorem test_wf_label_missing_refused : programWf [.ifGoto .NOINV 1 "fail"] = false := by decide
theorem test_wf_label_twice_refused : programWf [.label "a", .label "a"] = false := by decide
theorem test_wf_program : programWf
    [.WR .SA (.int 13), .CMD .sinv, .RD .STATUS, .ifGoto .NOINV 1 "clear", .label "clear", .CMD .nop] = true := by
  decide

/-! One step of each command, on the vectors of 95_test_vectors.md section 2. -/

theorem test_nop_status : reads .STATUS (ready 0 0 0 0 0 0 0 (commandWrite 0)) = some 0x01 := by decide
theorem test_sinv_negative :
    reads .RS (ready 0 0 0 0 0 0 0xFFFFFFE5 (commandWrite 1)) = some 25 := by decide
theorem test_sinv_lowest_fails :
    reads .STATUS (ready 0 0 0 0 0 0 0x80000000 (commandWrite 1)) = some 0x12 := by decide
theorem test_det_negative :
    reads .RS (ready 7 8 8 7 0 0 0 (commandWrite 2)) = some 0xFFFFFFF1 := by decide
theorem test_det_extreme :
    reads .RS (ready 0x80000000 0x80000000 0x7FFFFFFF 0x80000000 0 0 0 (commandWrite 2)) = some 10 := by
  decide
theorem test_minv_row_major :
    (after (step (ready 3 3 2 5 0 0 0 (commandWrite 3)))).map
      (fun t => [t.regs.RM00, t.regs.RM01, t.regs.RM10, t.regs.RM11]) = some [15, 17, 20, 9] := by decide
theorem test_minv_singular :
    reads .STATUS (ready 1 1 0 13 0 0 0 (commandWrite 3)) = some 0x32 := by decide
theorem test_mvmul_column :
    (after (step (ready 0x7FFFFFFF 0x7FFFFFFF 0x80000000 0x80000000 0x7FFFFFFF 0x80000000 0
      (commandWrite 4)))).map (fun t => (t.regs.RV0, t.regs.RV1)) = some (3, 24) := by decide
theorem test_mvmul_negative :
    reads .RV0 (ready 1 0 0 1 0xFFFFFFFF 27 0 (commandWrite 4)) = some 25 := by decide

/-! The bus, on the rows of 95_test_vectors.md section 2 and program P4. -/

theorem test_illegal_word : reads .STATUS (ready 0 0 0 0 0 0 9 (commandWrite 0x11)) = some 0x14 := by decide
theorem test_narrow_command_write :
    (after (step (ready 0 0 0 0 0 0 9 (.access (.write 0x1C [0x01]))))).map
      (fun t => (t.regs.STATUS.toWord, t.observed)) = some (0, [.busError 0x1C]) := by decide
theorem test_misaligned_read :
    (after (step (ready 0 0 0 0 0 0 0 (.access (.read 0x22 4))))).map State.observed =
      some [.busError 0x22] := by decide
theorem test_read_only_write : reads .RS (ready 0 0 0 0 0 0 0 (writeOf .RS 5)) = some 0 := by decide
theorem test_reserved_read :
    (after (step (ready 1 1 1 1 1 1 1 (.access (.read 0x7C 4))))).map State.observed = some [.word 0] := by
  decide
theorem test_lanes_little_endian :
    reads .M00 (ready 0 0 0 0 0 0 0 (.access (.write 0 [0x78, 0x56, 0x34, 0x12]))) = some 0x12345678 := by
  decide
theorem test_fetch_word :
    (after (step (State.reset.withFetchWord 32 3))).map (fun t => (t.regs.STATUS, t.pending)) =
      some (⟨false, true, false, 3⟩, []) := by decide
theorem test_outside_window :
    refusal (step (ready 0 0 0 0 0 0 0 (.access (.read 128 4)))) = some .accessOutsideWindow := by decide
theorem test_access_in_reset :
    refusal (step { ready 0 0 0 0 0 0 0 (readOf .STATUS) with resetAsserted := true }) =
      some .accessDuringReset := by decide
theorem test_idle : after (step State.reset) = some State.reset := by decide
theorem test_branch_taken :
    hostLine [.ifGoto .NOINV 1 "clear", .CMD .sinv, .label "clear"] (.ifGoto .NOINV 1 "clear")
      { machine := State.reset, line := 0, lastStatus := some 0x12 } =
      .next { machine := State.reset, line := 2, lastStatus := some 0x12 } := by decide

/-! Witnesses: for each statement with hypotheses, a state and operands that meet them. -/

/-- A sample machine: M = [[3,3],[2,5]], determinant 9, a unit. -/
def unitState : State := ready 3 3 2 5 7 4 9 (commandWrite 3)

/-- A sample machine: M = [[2,0],[0,1]], determinant 2, SA = 13, no units. -/
def nonUnitState : State := ready 2 0 0 1 7 4 13 (commandWrite 3)

theorem test_witness_AccessAtResetIsRefused :
    { State.reset with resetAsserted := true }.resetAsserted = true ∧
      0 ≤ (Access.read 127 4).off ∧ (Access.read 127 4).off < 128 ∧
      0 ≤ (Access.write 0 [1, 2, 3, 4]).off ∧ (Access.write 0 [1, 2, 3, 4]).off < 128 := by decide

theorem test_witness_ResetInputSetsEveryRegister :
    { State.reset with resetAsserted := true }.resetAsserted = true ∧
      State.reset.resetAsserted = false := by decide

/-- The state unitState meets the invariant and steps to a next state. -/
theorem test_witness_InvariantKeptByEveryStep :
    State.Inv unitState ∧ ∃ t, step unitState = .next t :=
  ⟨{ inRange := ⟨by decide, by decide, by decide, by decide, by decide, by decide, by decide, by decide⟩
     oneFlag := by decide
     noFlagOnlyAfterReset := fun _ => ⟨rfl, rfl, rfl, rfl, rfl, rfl, rfl, rfl⟩
     okOpcode := by decide
     noinvOpcode := by decide
     failedSinv := by decide
     goodSinv := by decide
     matrixResult := .inl rfl
     resetHolds := fun h => absurd h (by decide) }, _, rfl⟩

theorem test_witness_MemReadOfWindow :
    State.reset.resetAsserted = false ∧
      (127 < 128 ∧ 127 % 4 ≠ 0) ∧ (0x7C < 128 ∧ 8 ≠ 4) ∧
      (Reg.M00.offset = 0 ∧ Reg.M00 ≠ .CMD) ∧ (Reg.RM11.offset = 0x3C ∧ Reg.RM11 ≠ .CMD) ∧
      (0x1C < 128 ∧ 0x1C % 4 = 0) ∧ (0x40 ≤ 0x40 ∧ 0x40 % 4 = 0) ∧
      (0x40 ≤ 0x7C ∧ 0x7C < 128 ∧ 0x7C % 4 = 0) := by decide

theorem test_witness_MemWriteOfWindow :
    State.reset.resetAsserted = false ∧
      ([1] : List Byte).length ≠ 4 ∧ 127 % 4 ≠ 0 ∧
      (Reg.M00.offset = 0 ∧ 0 ≤ 0x18) ∧ (Reg.SA.offset = 0x18 ∧ 0x18 ≤ 0x18) ∧
      ([1, 2, 3, 4] : List Byte).length = 4 ∧ 0x1C < 128 ∧
      (0x20 ≤ 0x20 ∧ 0x20 % 4 = 0) ∧ (0x20 ≤ 0x7C ∧ 0x7C % 4 = 0 ∧ 0x7C < 128) := by decide

theorem test_witness_WindowPlacement :
    (Access.read (-1) 4).off < 0 ∧ 128 ≤ (Access.read 128 4).off := by decide

theorem test_witness_OperandReadReturnsLatestWrite :
    State.reset.resetAsserted = false ∧ Reg.SA.rights = .readWrite ∧
      hostObeys false [commandWrite 1, readOf .RS, writeOf .V1 5] = true ∧
      ∀ e ∈ [commandWrite 1, readOf .RS, writeOf .V1 5], e.writes .SA = false ∧ e.resets = false := by
  decide

/-- A write of SA that changes it. -/
theorem test_witness_OperandsChangeOnlyByHostWrite :
    ∃ t, step (ready 0 0 0 0 0 0 0 (writeOf .SA 9)) = .next t ∧ Reg.SA.rights = .readWrite ∧
      t.regs.get .SA ≠ (ready 0 0 0 0 0 0 0 (writeOf .SA 9)).regs.get .SA :=
  ⟨_, rfl, rfl, by decide⟩

theorem test_witness_CommandWriteIsIdempotent : unitState.resetAsserted = false := rfl

theorem test_witness_DutifulRunCompletes :
    hostObeys false [.driveReset true, .driveReset false, writeOf .SA 9, commandWrite 0xFFFFFFFF,
      .access (.write 0x1C [1]), readOf .STATUS] = true := by decide

theorem test_witness_EncodedCommandDecodes : Instr.mvmul.wf = true := rfl

theorem test_witness_RejectedWordsByName :
    16 ≤ (0x00000010 : Word).toNat ∧ (5 ≤ (0x00000005 : Word).toNat ∧ (0x0000000F : Word).toNat < 16) ∧
      ([1, 2, 3] : List Byte).length ≠ 4 := by decide

theorem test_witness_StepRunsDecodedCommand :
    State.reset.resetAsserted = false ∧ Instr.minv.wf = true ∧ decode 3 = .ok .minv ∧
      decodeBytes [3, 0, 0, 0] = .ok .minv := ⟨rfl, rfl, rfl, rfl⟩

theorem test_witness_ExecuteByWord :
    State.reset.resetAsserted = false ∧
      (0x10 : Word).extractLsb' 4 28 ≠ 0 ∧ 4 < ((5 : Word).extractLsb' 0 4).toNat ∧
      (4 : Word).extractLsb' 4 28 = 0 ∧ (0 : Word).extractLsb' 0 4 = 0 ∧
      (1 : Word).extractLsb' 0 4 = 1 ∧ (2 : Word).extractLsb' 0 4 = 2 ∧
      (3 : Word).extractLsb' 0 4 = 3 ∧ (4 : Word).extractLsb' 0 4 = 4 := by decide

theorem test_witness_IllegalWordWritesStatusOnly :
    State.reset.resetAsserted = false ∧ 5 ≤ (5 : Word).toNat ∧ 5 ≤ (0xFFFFFFFF : Word).toNat := by decide

/-- A step that changes STATUS, and a state outside of reset. -/
theorem test_witness_StatusAfterEveryEvent :
    unitState.resetAsserted = false ∧
      ∃ t, step unitState = .next t ∧ t.regs.STATUS ≠ unitState.regs.STATUS :=
  ⟨rfl, _, rfl, by decide⟩

/-- DET straight after reset reaches OK. -/
theorem test_witness_NopReportsSuccess :
    State.reset.resetAsserted = false ∧
      ∃ t, step { State.reset with pending := [commandWrite 2] } = .next t ∧ t.regs.STATUS.OK = true :=
  ⟨rfl, _, rfl, rfl⟩

/-- SA = 9 has the first inverse 3; SA = 13 has none. -/
theorem test_witness_SinvReturnsFirstInverse :
    (Int.tmod (Int.tmod (Int.tmod unitState.regs.SA.toInt 26 + 26) 26 * 3) 26 = 1 ∧
      ∀ c : Fin 3, 1 ≤ c.val →
        Int.tmod (Int.tmod (Int.tmod unitState.regs.SA.toInt 26 + 26) 26 * c.val) 26 ≠ 1) ∧
    (∀ c : Fin 26, 1 ≤ c.val →
      Int.tmod (Int.tmod (Int.tmod nonUnitState.regs.SA.toInt 26 + 26) 26 * c.val) 26 ≠ 1) := by decide

theorem test_witness_SinvSucceedsExactlyOnUnits :
    Int.gcd unitState.regs.SA.toInt 26 = 1 ∧ Int.gcd nonUnitState.regs.SA.toInt 26 ≠ 1 := by decide

/-- Determinant 9 has the first inverse 3; determinant 2 has none. -/
theorem test_witness_MinvScalesAdjugateByFirstInverse :
    (Int.tmod (Int.tmod (Int.tmod (Int.tmod unitState.regs.determinant 26) 26 + 26) 26 * 3) 26 = 1 ∧
      ∀ c : Fin 3, 1 ≤ c.val →
        Int.tmod (Int.tmod (Int.tmod (Int.tmod unitState.regs.determinant 26) 26 + 26) 26 * c.val) 26 ≠ 1) ∧
    (∀ c : Fin 26, 1 ≤ c.val →
      Int.tmod (Int.tmod (Int.tmod (Int.tmod nonUnitState.regs.determinant 26) 26 + 26) 26 * c.val) 26
        ≠ 1) := by decide

theorem test_witness_MinvFailsExactlyOnNonUnits :
    Int.gcd unitState.regs.determinant 26 = 1 ∧ Int.gcd nonUnitState.regs.determinant 26 ≠ 1 := by decide

/-- The hypothesis of MinvIsTwoSidedInverse, MinvOfMinvReturnsResidues and EncryptThenDecryptReturnsResidues. -/
theorem test_witness_MinvOnUnits : Int.gcd unitState.regs.determinant 26 = 1 := by decide

/-- MVMUL answers a next state; and a MINV that does not set OK. -/
theorem test_witness_CommandFrame :
    (∃ t, exec .mvmul unitState = .next t) ∧
      ∃ t, exec .minv nonUnitState = .next t ∧ t.regs.STATUS.OK = false :=
  ⟨⟨_, rfl⟩, _, rfl, by decide⟩

/-- Two states with the same operands and different results, and MINV setting OK on one. -/
theorem test_witness_CommandsReadOnlyTheirOperands :
    ∃ s' : State, s'.regs ≠ unitState.regs ∧ s'.regs.SA = unitState.regs.SA ∧
      s'.regs.M00 = unitState.regs.M00 ∧ s'.regs.M01 = unitState.regs.M01 ∧
      s'.regs.M10 = unitState.regs.M10 ∧ s'.regs.M11 = unitState.regs.M11 ∧
      s'.regs.V0 = unitState.regs.V0 ∧ s'.regs.V1 = unitState.regs.V1 ∧
      ∃ t, exec .minv unitState = .next t ∧ t.regs.STATUS.OK = true :=
  ⟨{ unitState with regs := { unitState.regs with RS := 7 } }, by decide, rfl, rfl, rfl, rfl, rfl, rfl, rfl,
    _, rfl, by decide⟩

/-- Two states that differ, with operands congruent mod 26 (one of them negative) and the same results. -/
theorem test_witness_ResultsDependOnlyOnResidues :
    ∃ s' : State, s'.regs ≠ unitState.regs ∧ unitState.regs.SameResults s'.regs ∧
      (26 : Int) ∣ s'.regs.M00.toInt - unitState.regs.M00.toInt ∧
      (26 : Int) ∣ s'.regs.M01.toInt - unitState.regs.M01.toInt ∧
      (26 : Int) ∣ s'.regs.M10.toInt - unitState.regs.M10.toInt ∧
      (26 : Int) ∣ s'.regs.M11.toInt - unitState.regs.M11.toInt ∧
      (26 : Int) ∣ s'.regs.V0.toInt - unitState.regs.V0.toInt ∧
      (26 : Int) ∣ s'.regs.V1.toInt - unitState.regs.V1.toInt ∧
      (26 : Int) ∣ s'.regs.SA.toInt - unitState.regs.SA.toInt ∧ Instr.sinv ≠ .det :=
  ⟨ready 29 (-23) 2 31 33 (-22) 35 (commandWrite 3), by decide, ⟨rfl, rfl, rfl, rfl, rfl, rfl, rfl, rfl⟩,
    by decide, by decide, by decide, by decide, by decide, by decide, by decide, by decide⟩

/-- An illegal word, and a failing SINV: both leave OK = 0. -/
theorem test_witness_ErrorsLeaveNoStickyState :
    nonUnitState.resetAsserted = false ∧
      (∃ t, step { nonUnitState with pending := [commandWrite 5, commandWrite 4] } = .next t ∧
        t.regs.STATUS.OK = false ∧ (5 : Word) ≠ 1) ∧
      ∃ t, step { nonUnitState with pending := [commandWrite 1, commandWrite 4] } = .next t ∧
        t.regs.STATUS.OK = false :=
  ⟨rfl, ⟨_, rfl, rfl, by decide⟩, _, rfl, by decide⟩

theorem test_witness_ResultsKeptUntilNextCommand :
    unitState.resetAsserted = false ∧ Reg.RM11.rights = .readOnly ∧
      hostObeys false [writeOf .M00 5, writeOf .RS 5, .access (.write 0x1C [1])] = true ∧
      ∀ e ∈ [writeOf .M00 5, writeOf .RS 5, .access (.write 0x1C [1])],
        e.writes .CMD = false ∧ e.resets = false := by decide

/-- An operand write, a byte write at CMD (a bus error) and no event at all: each keeps the results. -/
theorem test_witness_ResultsKeptByEveryStep :
    ∀ es ∈ [[writeOf .M00 5], [.access (.write 0x1C [1]), commandWrite 3], []],
      unitState.regs.SameResults { unitState with pending := es }.regs ∧
        (∃ t, step { unitState with pending := es } = .next t) ∧
        ∀ e ∈ es.head?, e.writes .CMD = false ∧ e.resets = false := by
  intro es hes
  refine ⟨⟨rfl, rfl, rfl, rfl, rfl, rfl, rfl, rfl⟩, ?_, ?_⟩ <;>
    fin_cases hes <;> first | exact ⟨_, rfl⟩ | decide

/-- SA operands for both clauses: 9 is a unit, 13 is none. -/
theorem test_witness_InvsObservesInverse :
    State.reset.resetAsserted = false ∧ Int.gcd (9 : Word).toInt 26 = 1 ∧
      Int.gcd (13 : Word).toInt 26 ≠ 1 := by decide

theorem test_witness_BranchLinesAreNoAccess :
    findLabel [.CMD .nop, .label "fail"] "fail" = some 1 ∧
      (HostRun.mk State.reset 0 (some 0x32)).lastStatus = some 0x32 ∧ StatusField.NOINV.of 0x32 = 1 := by
  decide

end Sys2Proof.Tests
end

section
/-! The command words, the STATUS value each of them leaves, and the reset state (10_state.md R24 to R29,
R37; 30_encoding.md R61, R64). -/

namespace Sys2Proof

/-- R60: a word is its two fields. -/
theorem rsvField_append_opcField (w : Word) : rsvField w ++ opcField w = w :=
  BitVec.extractLsb'_append_extractLsb'_eq_extractLsb' (by rfl) |>.trans (BitVec.extractLsb'_eq_self)

/-- R63: an OPC selects the command whose OPC it is. -/
theorem ofOpc_eq_some_iff (opc : Nibble) (i : Instr) : ofOpc opc = some i ↔ opc = i.opc := by
  cases i <;> revert opc <;> decide

/-- R61, R64: the decoder accepts exactly the command's own word. -/
theorem decode_eq_ok_iff (w : Word) (i : Instr) : decode w = .ok i ↔ w = encode i := by
  constructor
  · intro h
    unfold decode at h
    split at h
    · cases h
    next hrsv =>
      split at h
      next j hj =>
        cases h
        rw [← rsvField_append_opcField w, not_not.mp hrsv, (ofOpc_eq_some_iff _ _).mp hj, encode]
      · cases h
  · rintro rfl
    cases i <;> rfl

/-- R60, R63: a command's word carries its OPC. -/
@[simp] theorem opcField_encode (i : Instr) : opcField (encode i) = i.opc := by
  cases i <;> rfl

/-- R61: a word is a command's word, or it is no command's word and the decoder rejects it. -/
theorem exists_eq_encode_or_decode_error (w : Word) :
    (∃ i, w = encode i) ∨ (∀ i, w ≠ encode i) ∧ ∃ e, decode w = .error e := by
  cases h : decode w with
  | ok i => exact .inl ⟨i, (decode_eq_ok_iff w i).mp h⟩
  | error e =>
    refine .inr ⟨fun i hi => ?_, e, rfl⟩
    rw [(decode_eq_ok_iff w i).mpr hi] at h
    cases h

namespace Machine

/-- R61: a command's word does what the command does. -/
theorem wordRegs_encode (i : Instr) (r : Registers) : wordRegs (encode i) r = commandRegs i r := by
  unfold wordRegs
  rw [(decode_eq_ok_iff _ i).mpr rfl]

/-- R90: a rejected word writes STATUS only. -/
theorem wordRegs_decode_error (w : Word) (e : DecodeError) (r : Registers) (h : decode w = .error e) :
    wordRegs w r = r.setStatus (Status.illegalWord w) := by
  unfold wordRegs
  rw [h]

/-- R72: the search decides whether its argument is a unit. -/
theorem scalarInverse_isSome_eq_gcd_beq (a : Int) :
    (scalarInverse a).isSome = (Int.gcd a 26 == 1) :=
  Bool.eq_iff_iff.mpr ((scalarInverse_isSome a).trans beq_iff_eq.symm)

/-- Whether a command finds the inverse it asks for: SINV and MINV need a unit, the others ask for none
(10_state.md R24, R25). -/
def commandSucceeds (i : Instr) (r : Registers) : Bool :=
  match i with
  | .nop | .det | .mvmul => true
  | .sinv => Int.gcd r.SA.toInt 26 == 1
  | .minv => Int.gcd r.determinant 26 == 1

/-- The STATUS value a command leaves (10_state.md R29). -/
def commandStatus (i : Instr) (r : Registers) : Status :=
  { OK := commandSucceeds i r, NOINV := !commandSucceeds i r, ILLEGAL := false, LASTOP := i.opc }

theorem sinvRegs_STATUS (r : Registers) : (sinvRegs r).STATUS = commandStatus .sinv r := by
  have hunit : (scalarInverse r.scalar).isSome = commandSucceeds .sinv r :=
    scalarInverse_isSome_eq_gcd_beq _
  unfold commandStatus
  rw [← hunit]
  cases h : scalarInverse r.scalar with
  | some c => rw [sinvRegs_some r c h]; rfl
  | none => rw [sinvRegs_none r h]; rfl

theorem minvRegs_STATUS (r : Registers) : (minvRegs r).STATUS = commandStatus .minv r := by
  have hunit : (scalarInverse r.matrix.det).isSome = commandSucceeds .minv r :=
    scalarInverse_isSome_eq_gcd_beq _
  unfold commandStatus
  rw [← hunit]
  cases h : scalarInverse r.matrix.det with
  | some c => rw [minvRegs_some r c h]; rfl
  | none => rw [minvRegs_none r h]; rfl

/-- R29: the STATUS value each command leaves. -/
@[simp] theorem commandRegs_STATUS (i : Instr) (r : Registers) :
    (commandRegs i r).STATUS = commandStatus i r := by
  cases i with
  | nop => rfl
  | sinv => exact sinvRegs_STATUS r
  | det => rfl
  | minv => exact minvRegs_STATUS r
  | mvmul => rfl

/-- R23: a word's STATUS value is its command's, or the illegal word's. -/
theorem wordRegs_STATUS (w : Word) (r : Registers) :
    (∃ i, w = encode i ∧ (wordRegs w r).STATUS = commandStatus i r) ∨
      (∀ i, w ≠ encode i) ∧ (wordRegs w r).STATUS = Status.illegalWord w := by
  obtain ⟨i, rfl⟩ | ⟨hne, e, he⟩ := exists_eq_encode_or_decode_error w
  · exact .inl ⟨i, rfl, by rw [wordRegs_encode, commandRegs_STATUS]⟩
  · exact .inr ⟨hne, by rw [wordRegs_decode_error w e r he, setStatus_STATUS]⟩

/-- R24: when a CMD write sets OK. -/
theorem wordRegs_STATUS_OK_iff (w : Word) (r : Registers) :
    (wordRegs w r).STATUS.OK = true ↔
      w = 0 ∨ w = 2 ∨ w = 4 ∨ (w = 1 ∧ Int.gcd r.SA.toInt 26 = 1) ∨
        (w = 3 ∧ Int.gcd r.determinant 26 = 1) := by
  obtain ⟨i, rfl, hst⟩ | ⟨hne, hst⟩ := wordRegs_STATUS w r
  · rw [hst]
    cases i <;> simp [commandStatus, commandSucceeds, encode, Instr.opc]
  · simpa [hst, Status.illegalWord] using
      ⟨hne .nop, hne .det, hne .mvmul, fun h => (hne .sinv h).elim, fun h => (hne .minv h).elim⟩

/-- R25: when a CMD write sets NOINV. -/
theorem wordRegs_STATUS_NOINV_iff (w : Word) (r : Registers) :
    (wordRegs w r).STATUS.NOINV = true ↔
      (w = 1 ∧ Int.gcd r.SA.toInt 26 ≠ 1) ∨ (w = 3 ∧ Int.gcd r.determinant 26 ≠ 1) := by
  obtain ⟨i, rfl, hst⟩ | ⟨hne, hst⟩ := wordRegs_STATUS w r
  · rw [hst]
    cases i <;> simp [commandStatus, commandSucceeds, encode, Instr.opc]
  · simpa [hst, Status.illegalWord] using
      ⟨fun h => (hne .sinv h).elim, fun h => (hne .minv h).elim⟩

/-- R26: when a CMD write sets ILLEGAL. -/
theorem wordRegs_STATUS_ILLEGAL_iff (w : Word) (r : Registers) :
    (wordRegs w r).STATUS.ILLEGAL = true ↔ ¬(w = 0 ∨ w = 1 ∨ w = 2 ∨ w = 3 ∨ w = 4) := by
  obtain ⟨i, rfl, hst⟩ | ⟨hne, hst⟩ := wordRegs_STATUS w r
  · rw [hst]
    cases i <;> simp [commandStatus, encode, Instr.opc]
  · simpa [hst, Status.illegalWord] using
      ⟨hne .nop, hne .sinv, hne .det, hne .minv, hne .mvmul⟩

/-- R27: LASTOP is the OPC field of the word. -/
theorem wordRegs_STATUS_LASTOP (w : Word) (r : Registers) :
    (wordRegs w r).STATUS.LASTOP = opcField w := by
  obtain ⟨i, rfl, hst⟩ | ⟨hne, hst⟩ := wordRegs_STATUS w r
  · rw [hst, commandStatus, opcField_encode]
  · rw [hst, Status.illegalWord]

/-- R33, R22: of the accesses, only a word write to CMD changes STATUS. -/
theorem AccessEffect.writes_CMD_of_STATUS_ne {a : Access} {s t : State} (h : AccessEffect a s t)
    (hne : t.regs.STATUS ≠ s.regs.STATUS) : (HostEvent.access a).writes .CMD = true := by
  cases h with
  | observed x => exact absurd rfl hne
  | ignored => exact absurd rfl hne
  | stored r w hr hw => exact absurd (setOperand_results s.regs r w).1 hne
  | executed w hw => exact hw

/-- Of the events, only a word write to CMD, reset and power change STATUS. -/
theorem StepEffect.event_of_STATUS_ne {s t : State} (h : StepEffect s t)
    (hne : t.regs.STATUS ≠ s.regs.STATUS) :
    ∃ e rest, s.pending = e :: rest ∧ (e.writes .CMD = true ∨ e.resets = true) := by
  cases h with
  | idle => exact absurd rfl hne
  | access a rest hp hr hw _ he => exact ⟨_, rest, hp, .inl (he.writes_CMD_of_STATUS_ne hne)⟩
  | reset asserted rest hp => exact ⟨_, rest, hp, .inr rfl⟩
  | power rest hp => exact ⟨_, rest, hp, .inr rfl⟩

/-- One step on the reset input being driven. -/
theorem step_driveReset (s : State) (asserted : Bool) (rest : List HostEvent) :
    step { s with pending := .driveReset asserted :: rest } =
      .next (State.driveReset { s with pending := rest } asserted) :=
  step_cons _ (.driveReset asserted) rest rfl

/-- R109: asserting reset puts every register at its reset value. -/
@[simp] theorem driveReset_true_regs (s : State) : (s.driveReset true).regs = Registers.reset := rfl

/-- R37: every register reads 0 in the reset record. -/
@[simp] theorem reset_get (r : Reg) : Registers.reset.get r = 0 := by
  cases r <;> rfl

end Machine

end Sys2Proof

open Sys2Proof Sys2Proof.Machine

/-- Settles O24: the four fields by the equation per field of a command word, reset by its own equation,
and the frame by the inversion of `step`. -/
theorem statusAfterEveryEvent : Obligations.StatusAfterEveryEvent := by
  unfold Obligations.StatusAfterEveryEvent
  refine ⟨fun s w rest hr => ?_, fun s rest => ?_, fun s t hst hne => ?_⟩
  · exact ⟨_, step_commandWrite s w rest hr, wordRegs_STATUS_OK_iff w s.regs,
      wordRegs_STATUS_NOINV_iff w s.regs, wordRegs_STATUS_ILLEGAL_iff w s.regs,
      wordRegs_STATUS_LASTOP w s.regs⟩
  · exact ⟨_, step_driveReset s true rest, congrArg Registers.STATUS (driveReset_true_regs _)⟩
  · exact (step_effect s t hst).event_of_STATUS_ne hne

/-- Settles O1, register by register; K, v and a are read from registers that are 0. -/
theorem resetRegistersAreZero : Obligations.ResetRegistersAreZero := by
  unfold Obligations.ResetRegistersAreZero
  exact ⟨reset_get, rfl, rfl, rfl, rfl⟩

end

section
/-! One host access of the window, and the window's slots by their offsets (20_memory.md R43, R44;
10_state.md R16, R33, R34). -/

namespace Sys2Proof.Machine

/-- R16: the operand registers stand at 0x00 to 0x18. -/
theorem rights_eq_readWrite_iff (r : Reg) : r.rights = .readWrite ↔ r.offset ≤ 0x18 := by
  cases r <;> decide

/-- R16: the read-only registers stand from 0x20 on. -/
theorem rights_eq_readOnly_iff (r : Reg) : r.rights = .readOnly ↔ 0x20 ≤ r.offset := by
  cases r <;> decide

/-- R43: a read at a register's offset returns what the register holds. -/
@[simp] theorem readWindow_offset (r : Registers) (name : Reg) :
    r.readWindow name.offset = r.get name := by
  simp [Registers.readWindow]

/-- R34: a reserved slot reads 0. -/
theorem readWindow_reserved (r : Registers) (off : Nat) (h : 0x40 ≤ off) : r.readWindow off = 0 := by
  simp [Registers.readWindow, atOffset_reserved off h]

/-- R44: an operand register stores the written word. -/
theorem writeWindow_operand (r : Reg) (w : Word) (s : State) (h : r.rights = .readWrite) :
    writeWindow r.offset w s = .next (s.withRegs (s.regs.setOperand r w)) := by
  simp [writeWindow, h]

/-- R44: CMD executes the written word. -/
theorem writeWindow_CMD (w : Word) (s : State) : writeWindow Reg.CMD.offset w s = executeWord w s := rfl

/-- R33, R34: from 0x20 on a write is ignored, at a read-only register and at a reserved slot alike. -/
theorem writeWindow_ignored (off : Nat) (w : Word) (s : State) (h : 0x20 ≤ off) :
    writeWindow off w s = .next s := by
  unfold writeWindow
  cases hat : Reg.atOffset off with
  | none => rfl
  | some r =>
    have hro : r.rights = .readOnly :=
      (rights_eq_readOnly_iff r).mpr ((offset_of_atOffset off r hat).symm ▸ h)
    simp [hro]

/-- R43, R44: the test that a bus error answers. -/
theorem malformed_eq_true_iff (a : Access) (off : Nat) :
    a.malformed off = true ↔ a.width ≠ 4 ∨ off % 4 ≠ 0 := by
  simp [Access.malformed]

/-- R95: a malformed access is a bus error, a read and a write alike. -/
theorem accessWindow_malformed (a : Access) (off : Nat) (s : State) (h : a.width ≠ 4 ∨ off % 4 ≠ 0) :
    accessWindow a off s = .next (s.busError off) := by
  simp [accessWindow, malformed_eq_true_iff, h]

/-- R43: a well-formed read. -/
theorem accessWindow_read (o : Int) (n off : Nat) (s : State) (hn : n = 4) (hoff : off % 4 = 0) :
    accessWindow (.read o n) off s = .next (s.observe (.word (s.regs.readWindow off))) := by
  simp [accessWindow, malformed_eq_true_iff, Access.width, hn, hoff]

/-- R44: a well-formed write. -/
theorem accessWindow_write (o : Int) (lanes : List Byte) (off : Nat) (s : State)
    (hlen : lanes.length = 4) (hoff : off % 4 = 0) :
    accessWindow (.write o lanes) off s = writeWindow off (wordOfLanes lanes) s := by
  simp [accessWindow, malformed_eq_true_iff, Access.width, hlen, hoff]

section StepAccess
variable {s : State} {off : Nat} (rest : List HostEvent)
variable (hr : s.resetAsserted = false) (hlt : off < 128)
include hr hlt

/-- One step on an access inside the window, outside of reset. -/
theorem step_access (a : Access) (ho : a.off = off) :
    step { s with pending := .access a :: rest } = accessWindow a off { s with pending := rest } := by
  rw [step_cons _ _ _ rfl]
  simp [performEvent, performAccess, windowOffset_eq a off ho hlt, hr]

/-- One step on a malformed access (R95). -/
theorem step_malformed (a : Access) (ho : a.off = off) (h : a.width ≠ 4 ∨ off % 4 ≠ 0) :
    step { s with pending := .access a :: rest } =
      .next (State.busError { s with pending := rest } off) := by
  rw [step_access rest hr hlt a ho, accessWindow_malformed a off _ h]

/-- One step on a well-formed read (R43). -/
theorem step_read (n : Nat) (hn : n = 4) (hoff : off % 4 = 0) :
    step { s with pending := .access (.read off n) :: rest } =
      .next (State.observe { s with pending := rest } (.word (s.regs.readWindow off))) := by
  rw [step_access rest hr hlt (.read off n) rfl, accessWindow_read _ n off _ hn hoff]

/-- One step on a well-formed write (R44). -/
theorem step_write (lanes : List Byte) (hlen : lanes.length = 4) (hoff : off % 4 = 0) :
    step { s with pending := .access (.write off lanes) :: rest } =
      writeWindow off (wordOfLanes lanes) { s with pending := rest } := by
  rw [step_access rest hr hlt (.write off lanes) rfl, accessWindow_write _ lanes off _ hlen hoff]

end StepAccess

end Sys2Proof.Machine

open Sys2Proof Sys2Proof.Machine

/-- Settles O8: the step on a malformed access, and the step on a well-formed read with what the window
holds at a register, at CMD and at a reserved slot. -/
theorem memReadOfWindow : Obligations.MemReadOfWindow := by
  unfold Obligations.MemReadOfWindow
  intro s off n rest hr hlt
  refine ⟨fun hbad => ?malformed, fun r hoff _ hn => ?register, fun hzero hal hn => ?zero⟩
  case malformed => exact step_malformed rest hr hlt (.read off n) rfl hbad
  case register =>
    subst hoff
    rw [step_read rest hr hlt n hn (offset_aligned r), readWindow_offset]
    rfl
  case zero =>
    have hread : s.regs.readWindow off = 0 := by
      obtain rfl | hres := hzero
      · exact readWindow_offset s.regs .CMD
      · exact readWindow_reserved s.regs off hres
    rw [step_read rest hr hlt n hn hal, hread]
    rfl

/-- Settles O9: the step on a malformed access, and the step on a well-formed write with what the window
does with a word at an operand register, at CMD and from 0x20 on. -/
theorem memWriteOfWindow : Obligations.MemWriteOfWindow := by
  unfold Obligations.MemWriteOfWindow
  intro s off lanes rest hr hlt
  refine ⟨fun hbad => ?malformed, fun r hoff hle hlen => ?operand, fun hoff hlen => ?command,
    fun hge hal hlen => ?ignored⟩
  case malformed => exact step_malformed rest hr hlt (.write off lanes) rfl hbad
  case operand =>
    subst hoff
    have hrw : r.rights = .readWrite := (rights_eq_readWrite_iff r).mpr hle
    refine ⟨State.withRegs { s with pending := rest } (s.regs.setOperand r (wordOfLanes lanes)), ?_,
      fun r' => setOperand_get s.regs r r' _ hrw, (setOperand_results s.regs r _).1, rfl, rfl, rfl⟩
    rw [step_write rest hr hlt lanes hlen (offset_aligned r), writeWindow_operand r _ _ hrw]
  case command =>
    obtain rfl : off = Reg.CMD.offset := hoff
    rw [step_write rest hr hlt lanes hlen (offset_aligned .CMD), writeWindow_CMD]
  case ignored => rw [step_write rest hr hlt lanes hlen hal, writeWindow_ignored off _ _ hge]

end

section
/-! `Execute(w)` by the two fields of the word: a command's word runs the command, every other word
writes STATUS only (30_encoding.md R60, R61, R65; 42_system.md R90). -/

namespace Sys2Proof

/-- R60: the RSV field of a command's word is 0. -/
@[simp] theorem rsvField_encode (i : Instr) : rsvField (encode i) = 0 := by
  cases i <;> rfl

/-- R60: a word is a command's word exactly when its two fields are. -/
theorem eq_encode_iff (w : Word) (i : Instr) : w = encode i ↔ rsvField w = 0 ∧ opcField w = i.opc := by
  constructor
  · rintro rfl
    exact ⟨rsvField_encode i, opcField_encode i⟩
  · rintro ⟨hrsv, hopc⟩
    rw [← rsvField_append_opcField w, hrsv, hopc, encode]

/-- R60: the OPC field is the low four bits of the word's number. -/
theorem opcField_eq_ofNat (w : Word) : opcField w = BitVec.ofNat 4 w.toNat := rfl

/-- R63: the OPCs of the commands are 0x0 to 0x4. -/
theorem opc_toNat_le (i : Instr) : i.opc.toNat ≤ 4 := by
  cases i <;> decide

/-- R64: the numbers of the command words are those of their OPCs. -/
@[simp] theorem encode_toNat (i : Instr) : (encode i).toNat = i.opc.toNat := by
  cases i <;> rfl

/-- R61: with a bit of RSV set, or an OPC above 4, a word is no command's word. -/
theorem ne_encode_of_fields (w : Word) (h : rsvField w ≠ 0 ∨ 4 < (opcField w).toNat) (i : Instr) :
    w ≠ encode i := by
  rintro rfl
  obtain hrsv | hopc := h
  · exact hrsv (rsvField_encode i)
  · rw [opcField_encode] at hopc
    exact absurd (opc_toNat_le i) (by omega)

/-- R65: from 5 up a word is no command's word. -/
theorem ne_encode_of_five_le (w : Word) (h : 5 ≤ w.toNat) (i : Instr) : w ≠ encode i := by
  rintro rfl
  rw [encode_toNat] at h
  exact absurd (opc_toNat_le i) (by omega)

namespace Machine

/-- R90: a word that is no command's word writes STATUS only. -/
theorem wordRegs_of_ne_encode (w : Word) (r : Registers) (h : ∀ i, w ≠ encode i) :
    wordRegs w r = r.setStatus (Status.illegalWord w) := by
  obtain ⟨i, hi⟩ | ⟨-, e, he⟩ := exists_eq_encode_or_decode_error w
  · exact absurd hi (h i)
  · exact wordRegs_decode_error w e r he

section StepWord
variable (s : State) (w : Word) (rest : List HostEvent) (hr : s.resetAsserted = false)
include hr

/-- R61: one step on the write of a word with RSV = 0 and a command's OPC runs the command. -/
theorem step_commandWrite_of_fields (i : Instr) (hrsv : rsvField w = 0) (hopc : opcField w = i.opc) :
    step { s with pending := commandWrite w :: rest } = exec i { s with pending := rest } := by
  obtain rfl := (eq_encode_iff w i).mpr ⟨hrsv, hopc⟩
  rw [step_commandWrite s _ rest hr, wordRegs_encode, exec_eq]

/-- R65, R90: one step on the write of any other word writes STATUS only. -/
theorem step_commandWrite_illegal (h : ∀ i, w ≠ encode i) :
    step { s with pending := commandWrite w :: rest } =
      .next { s with
        pending := rest
        regs := s.regs.setStatus (Status.illegalWord w) } := by
  rw [step_commandWrite s w rest hr, wordRegs_of_ne_encode w s.regs h]
  rfl

end StepWord

end Machine

end Sys2Proof

open Sys2Proof Sys2Proof.Machine

/-- Settles O22: a word whose fields are no command's is illegal; RSV = 0 and an OPC make a command's
word, which runs the command. -/
theorem executeByWord : Obligations.ExecuteByWord := by
  unfold Obligations.ExecuteByWord
  intro s w rest hr
  refine ⟨fun hbad => ?illegal, fun hrsv => ?legal⟩
  case illegal => exact step_commandWrite_illegal s w rest hr (ne_encode_of_fields w hbad)
  case legal =>
    have hrun (i : Instr) := step_commandWrite_of_fields s w rest hr i hrsv
    exact ⟨hrun .nop, hrun .sinv, hrun .det, hrun .minv, hrun .mvmul⟩

/-- Settles O23: from 5 up a word is no command's word, and LASTOP is its low four bits. -/
theorem illegalWordWritesStatusOnly : Obligations.IllegalWordWritesStatusOnly := by
  unfold Obligations.IllegalWordWritesStatusOnly
  intro s w rest hr hge
  rw [← opcField_eq_ofNat w]
  exact step_commandWrite_illegal s w rest hr (ne_encode_of_five_le w hge)

end

section
/-! SINV by its search: the candidates ascend, so the first one that is an inverse is the least
(40_scalar.md R71, R73). -/

namespace Sys2Proof.Machine

/-- R12: `norm26` written with the truncating remainder. -/
theorem norm26_eq_tmod (x : Int) : norm26 x = Int.tmod (Int.tmod x 26 + 26) 26 := by
  rw [norm26, remT_eq_tmod, remT_eq_tmod, Config.MOD]

/-- R71: the candidates are the integers of [1,25]. -/
theorem mem_candidates_iff (c : Int) : c ∈ candidates ↔ 1 ≤ c ∧ c ≤ 25 := by
  simp only [candidates, List.mem_map, List.mem_range]
  constructor
  · rintro ⟨n, hn, rfl⟩
    omega
  · rintro ⟨hpos, hle⟩
    exact ⟨(c - 1).toNat, by omega, by omega⟩

/-- R71: the search runs through the candidates in ascending order. -/
theorem candidates_ascending : candidates.Pairwise (· < ·) := by decide

/-- R71: the test the search makes of a candidate. -/
theorem candidate_test_iff (a c : Int) :
    (remT (norm26 a * c) Config.MOD == 1) = true ↔ Int.tmod (norm26 a * c) 26 = 1 := by
  rw [beq_iff_eq, remT_eq_tmod, Config.MOD]

/-- R71: the search returns the least candidate that is an inverse. -/
theorem scalarInverse_eq_some_of_least (a c : Int) (hpos : 1 ≤ c) (hle : c ≤ 25)
    (hinv : Int.tmod (norm26 a * c) 26 = 1)
    (hleast : ∀ c', 1 ≤ c' → c' < c → Int.tmod (norm26 a * c') 26 ≠ 1) :
    scalarInverse a = some c := by
  obtain ⟨before, after, hsplit⟩ := List.append_of_mem ((mem_candidates_iff c).mpr ⟨hpos, hle⟩)
  refine List.find?_eq_some_iff_append.mpr
    ⟨(candidate_test_iff a c).mpr hinv, before, after, hsplit, fun c' hc' => ?_⟩
  have hmem : c' ∈ candidates := hsplit ▸ List.mem_append_left _ hc'
  have hlt : c' < c :=
    (List.pairwise_append.mp (hsplit ▸ candidates_ascending)).2.2 c' hc' c List.mem_cons_self
  have hne := hleast c' ((mem_candidates_iff c').mp hmem).1 hlt
  rwa [Bool.not_eq_true', ← Bool.not_eq_true, candidate_test_iff]

/-- R73: the search fails exactly when no candidate is an inverse. -/
theorem scalarInverse_eq_none_iff (a : Int) :
    scalarInverse a = none ↔ ∀ c, 1 ≤ c → c ≤ 25 → Int.tmod (norm26 a * c) 26 ≠ 1 := by
  simp only [scalarInverse, List.find?_eq_none, mem_candidates_iff, candidate_test_iff, and_imp, ne_eq]

/-- R71: SINV when the search finds c. -/
theorem exec_sinv_of_some (s : State) (c : Int) (h : scalarInverse s.regs.SA.toInt = some c) :
    exec .sinv s = .next { s with
      regs := { s.regs with RS := BitVec.ofInt 32 c, STATUS := Status.success 1 } } := by
  rw [exec_eq, commandRegs, sinvRegs_some s.regs c h]
  rfl

/-- R73: SINV when the search fails. -/
theorem exec_sinv_of_none (s : State) (h : scalarInverse s.regs.SA.toInt = none) :
    exec .sinv s = .next { s with
      regs := { s.regs with RS := 0, STATUS := Status.notInvertible 1 } } := by
  rw [exec_eq, commandRegs, sinvRegs_none s.regs h]
  rfl

end Sys2Proof.Machine

open Sys2Proof Sys2Proof.Machine

/-- Settles O26: the least inverse is what the search over the ascending candidates returns, and without
one the search fails. -/
theorem sinvReturnsFirstInverse : Obligations.SinvReturnsFirstInverse := by
  unfold Obligations.SinvReturnsFirstInverse
  intro s
  rw [← norm26_eq_tmod]
  refine ⟨fun c hpos hle hinv hleast => ?found, fun hnone => ?sentinel⟩
  case found =>
    exact exec_sinv_of_some s c (scalarInverse_eq_some_of_least _ c hpos hle hinv hleast)
  case sentinel => exact exec_sinv_of_none s ((scalarInverse_eq_none_iff _).mpr hnone)

end

section
/-! The matrix commands by their equations: DET's remainder, MVMUL's product, and MINV by the search on
the reduced determinant (41_matrix.md R75, R78 to R80, R85). -/

namespace Sys2Proof.Machine

/-- R75: the reduced determinant is the truncating remainder of the determinant. -/
theorem detRem_eq_tmod (K : Mat2) : K.detRem = Int.tmod K.det 26 := remT_eq_tmod K.det 26

/-- R79: MINV's inner search may take the reduced determinant or the exact one. -/
theorem scalarInverse_tmod_determinant (r : Registers) :
    scalarInverse (Int.tmod r.determinant 26) = scalarInverse r.determinant := by
  have h := scalarInverse_detRem r.matrix
  rwa [detRem_eq_tmod] at h

/-- R72, R80: the residues on which the search fails are the even ones and 13. -/
theorem scalarInverse_eq_none_iff_residue (a : Int) :
    scalarInverse a = none ↔ a % 26 % 2 = 0 ∨ a % 26 = 13 :=
  scalarInverse_residues (fun n found => found = none ↔ n % 2 = 0 ∨ n = 13) (by decide) a

/-- R78: MINV when the search finds c. -/
theorem exec_minv_of_some (s : State) (c : Int) (h : scalarInverse s.regs.determinant = some c) :
    exec .minv s = .next { s with
      regs := { s.regs with
        RM00 := BitVec.ofInt 32 (norm26 (c * s.regs.M11.toInt))
        RM01 := BitVec.ofInt 32 (norm26 (c * -s.regs.M01.toInt))
        RM10 := BitVec.ofInt 32 (norm26 (c * -s.regs.M10.toInt))
        RM11 := BitVec.ofInt 32 (norm26 (c * s.regs.M00.toInt))
        STATUS := Status.success 3 } } := by
  rw [exec_eq, commandRegs, minvRegs_some s.regs c h]
  rfl

/-- R80: MINV when the search fails. -/
theorem exec_minv_of_none (s : State) (h : scalarInverse s.regs.determinant = none) :
    exec .minv s = .next { s with
      regs := { s.regs with STATUS := Status.notInvertible 3 } } := by
  rw [exec_eq, commandRegs, minvRegs_none s.regs h]
  rfl

end Sys2Proof.Machine

open Sys2Proof Sys2Proof.Machine

/-- Settles O31: the least inverse of the reduced determinant is what MINV's search returns, and without
one the search fails. -/
theorem minvScalesAdjugateByFirstInverse : Obligations.MinvScalesAdjugateByFirstInverse := by
  unfold Obligations.MinvScalesAdjugateByFirstInverse
  intro s
  simp only [← norm26_eq_tmod]
  refine ⟨fun c hpos hle hinv hleast => ?found, fun hnone => ?failed⟩
  case found =>
    have hsearch := scalarInverse_eq_some_of_least _ c hpos hle hinv hleast
    rw [scalarInverse_tmod_determinant] at hsearch
    exact exec_minv_of_some s c hsearch
  case failed =>
    have hsearch := (scalarInverse_eq_none_iff _).mpr hnone
    rw [scalarInverse_tmod_determinant] at hsearch
    exact exec_minv_of_none s hsearch

/-- Settles O32: the search on the determinant fails exactly on the non-units, and exactly on the residues
that are even or 13. -/
theorem minvFailsExactlyOnNonUnits : Obligations.MinvFailsExactlyOnNonUnits := by
  unfold Obligations.MinvFailsExactlyOnNonUnits
  intro s
  refine ⟨?residues, fun hnonunit => ?failed, fun hunit => ?completed⟩
  case residues => rw [← scalarInverse_none, scalarInverse_eq_none_iff_residue]
  case failed => exact exec_minv_of_none s ((scalarInverse_none _).mpr hnonunit)
  case completed =>
    obtain ⟨c, hsearch⟩ := Option.isSome_iff_exists.mp ((scalarInverse_isSome _).mpr hunit)
    exact ⟨_, exec_minv_of_some s c hsearch, rfl⟩

/-- Settles O29: DET writes the reduced determinant, which is the truncating remainder. -/
theorem detReturnsTruncatedRemainder : Obligations.DetReturnsTruncatedRemainder := by
  unfold Obligations.DetReturnsTruncatedRemainder
  intro s
  rw [exec_eq, commandRegs, detRegs, detRem_eq_tmod]
  rfl

/-- Settles O36: MVMUL writes the row sums through `norm26`, which is written out by R12. -/
theorem mvmulReturnsNormalisedProduct : Obligations.MvmulReturnsNormalisedProduct := by
  unfold Obligations.MvmulReturnsNormalisedProduct
  intro s
  simp only [← norm26_eq_tmod]
  rw [exec_eq, commandRegs, mvmulRegs]
  rfl

end

section
/-! NOP, and the command words that reach OK from reset: the operand registers hold 0 there, which has
no inverse (42_system.md R89; 10_state.md R24). -/

namespace Sys2Proof.Machine

/-- R89: NOP writes STATUS only. -/
theorem exec_nop (s : State) :
    exec .nop s = .next { s with regs := s.regs.setStatus (Status.success 0) } := exec_eq .nop s

/-- R89: one step on the write of the word 0 to CMD is a NOP. -/
theorem step_commandWrite_zero (s : State) (rest : List HostEvent) (hr : s.resetAsserted = false) :
    step { s with pending := commandWrite 0 :: rest } =
      .next { s with
        pending := rest
        regs := s.regs.setStatus (Status.success 0) } := by
  rw [step_commandWrite_of_fields s 0 rest hr .nop (rsvField_encode .nop) (opcField_encode .nop),
    exec_nop]

/-- R23: the word of STATUS after a NOP. -/
theorem success_zero_toWord : (Status.success 0).toWord = 1 := by decide

/-- R89: on the reset registers a word that sets OK is the word of NOP, DET or MVMUL; SINV and MINV find
no inverse of 0. -/
theorem wordRegs_reset_OK (w : Word) (h : (wordRegs w Registers.reset).STATUS.OK = true) :
    w = encode .nop ∨ w = encode .det ∨ w = encode .mvmul := by
  have hSA : Int.gcd Registers.reset.SA.toInt 26 ≠ 1 := by decide
  have hdet : Int.gcd Registers.reset.determinant 26 ≠ 1 := by decide
  obtain hnop | hdetWord | hmvmul | ⟨-, hunit⟩ | ⟨-, hunit⟩ := (wordRegs_STATUS_OK_iff w _).mp h
  · exact .inl hnop
  · exact .inr (.inl hdetWord)
  · exact .inr (.inr hmvmul)
  · exact absurd hunit hSA
  · exact absurd hunit hdet

end Sys2Proof.Machine

open Sys2Proof Sys2Proof.Machine

/-- Settles O25: NOP by its equation, the word 0 by the step on a NOP's word, and the words that reach OK
from reset by when a CMD write sets OK. -/
theorem nopReportsSuccess : Obligations.NopReportsSuccess := by
  unfold Obligations.NopReportsSuccess
  refine ⟨exec_nop, step_commandWrite_zero, ?reads, fun w t hst hok => ?reaches⟩
  case reads => exact ⟨_, step_commandWrite_zero State.reset [] rfl, success_zero_toWord⟩
  case reaches =>
    have ht := (step_commandWrite State.reset w [] rfl).symm.trans hst
    cases ht
    exact wordRegs_reset_OK w hok

end

section
/-! The refusals of an access that breaks the reset rule (70_reset_and_hazards.md R110). -/

namespace Sys2Proof.Machine

/-- R95: an access outside the window is refused, in reset and out of it. -/
theorem performAccess_outside (a : Access) (s : State) (ho : a.windowOffset = none) :
    performAccess a s = .refused .accessOutsideWindow := by
  simp [performAccess, ho]

/-- R110: an access inside the window is refused in reset, before any check of its width or offset. -/
theorem performAccess_inReset (a : Access) (off : Nat) (s : State) (ho : a.windowOffset = some off)
    (hr : s.resetAsserted = true) : performAccess a s = .refused .accessDuringReset := by
  simp [performAccess, ho, hr]

/-- R110: in reset every access is refused, wherever it starts. -/
theorem performAccess_refused_inReset (a : Access) (s : State) (hr : s.resetAsserted = true) :
    ∃ r, performAccess a s = .refused r := by
  cases ho : a.windowOffset with
  | none => exact ⟨_, performAccess_outside a s ho⟩
  | some off => exact ⟨_, performAccess_inReset a off s ho hr⟩

/-- R42: an access that starts at one of the window's 128 bytes has an offset in the window. -/
theorem windowOffset_of_bounds (a : Access) (h0 : 0 ≤ a.off) (hlt : a.off < 128) :
    a.windowOffset = some a.off.toNat :=
  windowOffset_eq a _ (Int.toNat_of_nonneg h0).symm (by omega)

/-- One step on an access is that access. -/
theorem step_access_eq (s : State) (a : Access) (rest : List HostEvent) :
    step { s with pending := .access a :: rest } = performAccess a { s with pending := rest } :=
  step_cons _ (.access a) rest rfl

/-- R110: one step on an access in flight when reset is asserted. -/
theorem step_resetDuring (s : State) (a : Access) (rest : List HostEvent) :
    step { s with pending := .resetDuring a :: rest } = .refused .accessInFlightAtReset :=
  step_cons _ (.resetDuring a) rest rfl

end Sys2Proof.Machine

open Sys2Proof Sys2Proof.Machine

/-- Settles O4: in reset `performAccess` refuses on both sides of the window's edge, and by name inside
it; an access in flight at reset is refused in every state. -/
theorem accessAtResetIsRefused : Obligations.AccessAtResetIsRefused := by
  unfold Obligations.AccessAtResetIsRefused
  intro s a rest
  rw [step_access_eq]
  refine ⟨fun hr => ?refused, fun hr h0 hlt => ?inside, step_resetDuring s a rest⟩
  case refused => exact performAccess_refused_inReset a _ hr
  case inside => exact performAccess_inReset a _ _ (windowOffset_of_bounds a h0 hlt) hr

end

section
/-! Residues mod 26 as the ring `ZMod 26` (00_scope.md R12, R13): what the unit writes through `norm26` is
read back as a residue, and an equation between residues is an equation of that ring. -/

namespace Sys2Proof.Machine

/-- Two integers have one residue exactly when they are equal in the ring. -/
theorem emod_eq_emod_iff_cast (x y : Int) : x % 26 = y % 26 ↔ (x : ZMod 26) = y :=
  (ZMod.intCast_eq_intCast_iff' x y 26).symm

/-- A difference that 26 divides is an equation of the ring. -/
theorem cast_eq_of_dvd_sub {x y : Int} (h : (26 : Int) ∣ y - x) : (y : ZMod 26) = x :=
  ((ZMod.intCast_eq_intCast_iff_dvd_sub x y 26).mpr h).symm

theorem emod_eq_one_iff_cast (x : Int) : x % 26 = 1 ↔ (x : ZMod 26) = 1 := by
  simpa using emod_eq_emod_iff_cast x 1

theorem emod_eq_zero_iff_cast (x : Int) : x % 26 = 0 ↔ (x : ZMod 26) = 0 := by
  simpa using emod_eq_emod_iff_cast x 0

/-- A residue stands for its integer. -/
@[simp] theorem cast_emod (x : Int) : ((x % 26 : Int) : ZMod 26) = x := ZMod.intCast_mod x 26

/-- R12: `norm26` returns one value on one residue. -/
theorem norm26_eq_of_cast_eq {x y : Int} (h : (x : ZMod 26) = y) : norm26 x = norm26 y := by
  rw [norm26_eq_emod, norm26_eq_emod, (emod_eq_emod_iff_cast x y).mpr h]

/-- R9: a register that holds a normalised value reads, signed, as the residue. -/
@[simp] theorem toInt_ofInt_norm26 (x : Int) : (BitVec.ofInt 32 (norm26 x)).toInt = x % 26 :=
  sint32_bits32_norm26 x

/-- R9: a register that holds a normalised value reads, unsigned, as the residue. -/
@[simp] theorem toNat_ofInt_norm26 (x : Int) :
    ((BitVec.ofInt 32 (norm26 x)).toNat : Int) = x % 26 := by
  have hread := bits32_toNat (norm26 x) (norm26_nonneg x) (by have := norm26_lt x; omega)
  unfold bits32 at hread
  rw [hread, Int.toNat_of_nonneg (norm26_nonneg x), norm26_eq_emod]

/-- R38: a normalised value lies in [0,25]. -/
theorem toNat_ofInt_norm26_le (x : Int) : (BitVec.ofInt 32 (norm26 x)).toNat ≤ 25 := by
  have hread := toNat_ofInt_norm26 x
  omega

/-- R13: a factor of 1 mod 26 is a unit. -/
theorem gcd_eq_one_of_mul_cast {x y : Int} (h : (x : ZMod 26) * y = 1) : Int.gcd x 26 = 1 := by
  have hprod : (x * y) % 26 = 1 := (emod_eq_one_iff_cast _).mpr (by push_cast; exact h)
  refine Int.isCoprime_iff_gcd_eq_one.mp ⟨y, -(x * y / 26), ?_⟩
  have := Int.mul_ediv_add_emod (x * y) 26
  linarith

/-- R72: on a unit the search finds an inverse of its residue. -/
theorem exists_scalarInverse_of_unit {a : Int} (h : Int.gcd a 26 = 1) :
    ∃ c, scalarInverse a = some c ∧ (a : ZMod 26) * c = 1 := by
  obtain ⟨c, hc⟩ := Option.isSome_iff_exists.mp ((scalarInverse_isSome a).mpr h)
  obtain ⟨-, -, hinv⟩ := scalarInverse_some a c hc
  exact ⟨c, hc, by simpa using (emod_eq_one_iff_cast _).mp hinv⟩

/-- R71: the search returns one result on one residue. -/
theorem scalarInverse_eq_of_cast_eq {a b : Int} (h : (a : ZMod 26) = b) :
    scalarInverse a = scalarInverse b := by
  rw [scalarInverse_emod a, scalarInverse_emod b, (emod_eq_emod_iff_cast a b).mpr h]

end Sys2Proof.Machine

end

section
/-! What a command, and a command word, does to the registers, one case per outcome (10_state.md R29), and
what it leaves unchanged (R17, R29, R35). -/

namespace Sys2Proof.Machine

/-- What a command can leave in the registers: one case per command and outcome (R29). -/
inductive CommandEffect (r : Registers) : Instr → Registers → Prop where
  | nop : CommandEffect r .nop (r.setStatus (Status.success 0))
  | sinvFound (c : Int) (h : scalarInverse r.scalar = some c) :
      CommandEffect r .sinv ((r.setScalarResult c).setStatus (Status.success 1))
  | sinvFailed (h : scalarInverse r.scalar = none) :
      CommandEffect r .sinv ((r.setScalarResult 0).setStatus (Status.notInvertible 1))
  | det : CommandEffect r .det ((r.setScalarResult r.matrix.detRem).setStatus (Status.success 2))
  | minvFound (c : Int) (h : scalarInverse r.matrix.det = some c) :
      CommandEffect r .minv
        ((r.setMatrixResult (r.matrix.adj.scale c).norm).setStatus (Status.success 3))
  | minvFailed (h : scalarInverse r.matrix.det = none) :
      CommandEffect r .minv (r.setStatus (Status.notInvertible 3))
  | mvmul : CommandEffect r .mvmul
      ((r.setVectorResult (r.matrix.mulVec r.vector)).setStatus (Status.success 4))

/-- Every command has one of these effects. -/
theorem commandRegs_effect (i : Instr) (r : Registers) : CommandEffect r i (commandRegs i r) := by
  cases i with
  | nop => exact .nop
  | sinv =>
    cases h : scalarInverse r.scalar with
    | some c => rw [commandRegs, sinvRegs_some r c h]; exact .sinvFound c h
    | none => rw [commandRegs, sinvRegs_none r h]; exact .sinvFailed h
  | det => exact .det
  | minv =>
    cases h : scalarInverse r.matrix.det with
    | some c => rw [commandRegs, minvRegs_some r c h]; exact .minvFound c h
    | none => rw [commandRegs, minvRegs_none r h]; exact .minvFailed h
  | mvmul => exact .mvmul

/-- R61: a command word is a command's, or illegal. -/
theorem wordRegs_cases (w : Word) (r : Registers) :
    (∃ i, w = encode i ∧ wordRegs w r = commandRegs i r) ∨
      (∀ i, w ≠ encode i) ∧ wordRegs w r = r.setStatus (Status.illegalWord w) := by
  obtain ⟨i, rfl⟩ | ⟨hne, -⟩ := exists_eq_encode_or_decode_error w
  · exact .inl ⟨i, rfl, wordRegs_encode i r⟩
  · exact .inr ⟨hne, wordRegs_of_ne_encode w r hne⟩

/-- R17: a command writes no operand register. -/
theorem CommandEffect.sameOperands {r r' : Registers} {i : Instr} (h : CommandEffect r i r') :
    r.SameOperands r' := by
  cases h <;> exact ⟨rfl, rfl, rfl, rfl, rfl, rfl, rfl⟩

/-- R29: only SINV and DET write RS. -/
theorem CommandEffect.RS_eq {r r' : Registers} {i : Instr} (h : CommandEffect r i r')
    (hsinv : i ≠ .sinv) (hdet : i ≠ .det) : r'.RS = r.RS := by
  cases h with
  | sinvFound | sinvFailed => exact absurd rfl hsinv
  | det => exact absurd rfl hdet
  | _ => rfl

/-- R29: only MVMUL writes RV. -/
theorem CommandEffect.RV_eq {r r' : Registers} {i : Instr} (h : CommandEffect r i r')
    (hmvmul : i ≠ .mvmul) : r'.RV0 = r.RV0 ∧ r'.RV1 = r.RV1 := by
  cases h with
  | mvmul => exact absurd rfl hmvmul
  | _ => exact ⟨rfl, rfl⟩

/-- R29, R80: only a MINV that succeeds writes RM. -/
theorem CommandEffect.RM_eq {r r' : Registers} {i : Instr} (h : CommandEffect r i r')
    (hminv : i ≠ .minv ∨ r'.STATUS.OK = false) :
    r'.RM00 = r.RM00 ∧ r'.RM01 = r.RM01 ∧ r'.RM10 = r.RM10 ∧ r'.RM11 = r.RM11 := by
  cases h with
  | minvFound c h => simp [Status.success] at hminv
  | _ => exact ⟨rfl, rfl, rfl, rfl⟩

/-- R35: what a command does is the same whatever STATUS held. -/
@[simp] theorem commandRegs_setStatus (i : Instr) (r : Registers) (st : Status) :
    commandRegs i (r.setStatus st) = commandRegs i r := by
  have heffect := commandRegs_effect i r
  generalize commandRegs i r = r' at heffect
  cases heffect with
  | nop | det | mvmul => rfl
  | sinvFound c h => exact sinvRegs_some (r.setStatus st) c h
  | sinvFailed h => exact sinvRegs_none (r.setStatus st) h
  | minvFound c h => exact minvRegs_some (r.setStatus st) c h
  | minvFailed h => exact minvRegs_none (r.setStatus st) h

/-- R35: what a command word does is the same whatever STATUS held. -/
@[simp] theorem wordRegs_setStatus (w : Word) (r : Registers) (st : Status) :
    wordRegs w (r.setStatus st) = wordRegs w r := by
  obtain ⟨i, rfl, -⟩ | ⟨hne, h⟩ := wordRegs_cases w r
  · simp only [wordRegs_encode, commandRegs_setStatus]
  · rw [h, wordRegs_of_ne_encode w _ hne]
    rfl

end Sys2Proof.Machine

open Sys2Proof Sys2Proof.Machine

/-- Settles O39, result by result from the effects of the command. -/
theorem commandFrame : Obligations.CommandFrame := by
  unfold Obligations.CommandFrame
  intro i s t ht
  rw [exec_eq] at ht
  cases ht
  have heffect := commandRegs_effect i s.regs
  exact ⟨heffect.sameOperands, rfl, rfl, rfl, heffect.RS_eq, heffect.RV_eq, heffect.RM_eq⟩

/-- Settles O40: the command's registers are the same whatever STATUS held. -/
theorem noCommandReadsStatus : Obligations.NoCommandReadsStatus := by
  unfold Obligations.NoCommandReadsStatus
  intro i s st
  rw [exec_eq, exec_eq]
  exact congrArg (fun r => Host.Outcome.next (s.withRegs r)) (commandRegs_setStatus i s.regs st)

end

section
/-! The invariant of the unit and the results between commands: what one step can do to them
(10_state.md R23, R29 to R32, R38; 70_reset_and_hazards.md R109, R117). -/

namespace Sys2Proof.Machine

/-- Registers that agree with themselves. -/
theorem Registers.SameResults.refl (r : Registers) : r.SameResults r :=
  ⟨rfl, rfl, rfl, rfl, rfl, rfl, rfl, rfl⟩

/-- R33: the host's write of an operand register keeps the results and STATUS. -/
theorem Registers.SameResults.setOperand {r r' : Registers} (h : r.SameResults r') (name : Reg)
    (w : Word) : r.SameResults (r'.setOperand name w) := by
  cases name <;> exact h

/-- R117: an access that does not write CMD keeps the results and STATUS. -/
theorem AccessEffect.sameResults {a : Access} {s t : State} {r : Registers}
    (he : AccessEffect a s t) (h : r.SameResults s.regs)
    (hw : (HostEvent.access a).writes .CMD = false) : r.SameResults t.regs := by
  cases he with
  | observed x => exact h
  | ignored => exact h
  | stored name w hr _ => exact h.setOperand name w
  | executed w hw' => exact absurd hw' (by simp [hw])

/-- R117: a step that neither writes CMD nor resets the unit keeps the results and STATUS. -/
theorem StepEffect.sameResults {s t : State} {r : Registers} (hs : StepEffect s t)
    (h : r.SameResults s.regs)
    (hkeep : ∀ e ∈ s.pending.head?, e.writes .CMD = false ∧ e.resets = false) :
    r.SameResults t.regs := by
  cases hs with
  | idle => exact h
  | access a rest hp _ _ _ he => exact he.sameResults h (hkeep (.access a) (by simp [hp])).1
  | reset b rest hp => exact absurd (hkeep (.driveReset b) (by simp [hp])).2 (by simp [HostEvent.resets])
  | power rest hp => exact absurd (hkeep .powerCycle (by simp [hp])).2 (by simp [HostEvent.resets])

end Sys2Proof.Machine

open Sys2Proof Sys2Proof.Machine

/-- Settles O47 by the inversion of `step`: of the accesses only a command changes a result, and the other
events are resets. -/
theorem resultsKeptByEveryStep : Obligations.ResultsKeptByEveryStep := by
  unfold Obligations.ResultsKeptByEveryStep
  intro r s t h hst hkeep
  exact (step_effect s t hst).sameResults h hkeep

end

section
/-! The invariant of the unit: the ranges of the results, the STATUS rules, and a matrix result whose
determinant is a unit (10_state.md R23, R29 to R32, R38; 70_reset_and_hazards.md R109). -/

namespace Sys2Proof.Machine

/-- R75, R76: DET's result lies in [-25,25]. -/
theorem detRem_range (K : Mat2) : -25 ≤ K.detRem ∧ K.detRem ≤ 25 := by
  rw [detRem_eq_tmod]
  have hlow := Int.lt_tmod_of_pos K.det (show (0 : Int) < 26 by decide)
  have hhigh := Int.tmod_lt_of_pos K.det (show (0 : Int) < 26 by decide)
  omega

/-- R9: an integer of [-25,25] is read back from the register it was written to. -/
theorem toInt_bits32_of_small {v : Int} (h : -25 ≤ v ∧ v ≤ 25) : (bits32 v).toInt = v :=
  sint32_bits32 v (by omega) (by omega)

/-- R9: a normalised value is read back from the register it was written to. -/
theorem sint32_bits32_norm26_eq (x : Int) : sint32 (bits32 (norm26 x)) = norm26 x := by
  rw [sint32_bits32_norm26, norm26_eq_emod]

/-- R32: the matrix result holds what MINV writes. -/
@[simp] theorem matrixResult_setMatrixResult_norm (r : Registers) (K : Mat2) :
    (r.setMatrixResult K.norm).matrixResult = K.norm := by
  simp [Registers.matrixResult, Mat2.norm, sint32_bits32_norm26_eq]

/-- R82: the determinant of MINV's result is the inverse of the operand's determinant. -/
theorem cast_det_norm_scale_adj {K : Mat2} {c : Int} (h : (K.det : ZMod 26) * c = 1) :
    (((K.adj.scale c).norm.det : Int) : ZMod 26) = c := by
  simp only [Mat2.det, Mat2.norm, Mat2.scale, Mat2.adj, norm26_eq_emod] at h ⊢
  push_cast [cast_emod] at h ⊢
  linear_combination (c : ZMod 26) * h

/-- R38: a command keeps the ranges of the results. -/
theorem CommandEffect.inRange {r r' : Registers} {i : Instr} (he : CommandEffect r i r')
    (h : r.InRange) : r'.InRange := by
  cases he with
  | nop | minvFailed => exact { h with }
  | sinvFound c hc =>
    obtain ⟨hpos, hle, -⟩ := scalarInverse_some _ c hc
    have hread := toInt_bits32_of_small (v := c) ⟨by omega, hle⟩
    exact { h with
      rsLow := by simp only [setStatus_RS, setScalarResult_RS, hread]; omega
      rsHigh := by simp only [setStatus_RS, setScalarResult_RS, hread]; exact hle }
  | sinvFailed => 
    exact { h with
      rsLow := (by decide : -25 ≤ (bits32 0).toInt)
      rsHigh := (by decide : (bits32 0).toInt ≤ 25) }
  | det =>
    obtain ⟨hlow, hhigh⟩ := detRem_range r.matrix
    have hread := toInt_bits32_of_small ⟨hlow, hhigh⟩
    exact { h with rsLow := hread.symm ▸ hlow, rsHigh := hread.symm ▸ hhigh }
  | minvFound =>
    exact { h with
      rm00 := toNat_ofInt_norm26_le _, rm01 := toNat_ofInt_norm26_le _
      rm10 := toNat_ofInt_norm26_le _, rm11 := toNat_ofInt_norm26_le _ }
  | mvmul => exact { h with rv0 := toNat_ofInt_norm26_le _, rv1 := toNat_ofInt_norm26_le _ }

/-- R23: a command sets one flag, and no other. -/
theorem CommandEffect.oneFlag {r r' : Registers} {i : Instr} (he : CommandEffect r i r') :
    r'.STATUS.atMostOneFlag = true ∧ r'.STATUS.noFlag = false := by
  cases he <;> exact ⟨rfl, rfl⟩

/-- R27: a command leaves its OPC in LASTOP. -/
theorem CommandEffect.LASTOP_eq {r r' : Registers} {i : Instr} (he : CommandEffect r i r') :
    r'.STATUS.LASTOP = i.opc := by
  cases he <;> rfl

/-- R25: NOINV comes from SINV or MINV only. -/
theorem CommandEffect.noinvOpcode {r r' : Registers} {i : Instr} (he : CommandEffect r i r')
    (h : r'.STATUS.NOINV = true) : r'.STATUS.LASTOP = 1 ∨ r'.STATUS.LASTOP = 3 := by
  cases he with
  | sinvFailed => exact .inl rfl
  | minvFailed => exact .inr rfl
  | _ => cases h

/-- R30: after a SINV that failed RS is 0. -/
theorem CommandEffect.failedSinv {r r' : Registers} {i : Instr} (he : CommandEffect r i r')
    (h : r'.STATUS.NOINV = true) (hop : r'.STATUS.LASTOP = 1) : r'.RS = 0 := by
  cases he with
  | sinvFailed => rfl
  | minvFailed => exact absurd (show (3 : Nibble) = 1 from hop) (by decide)
  | _ => cases h

/-- R30: after a SINV that succeeded RS is in [1,25]. -/
theorem CommandEffect.goodSinv {r r' : Registers} {i : Instr} (he : CommandEffect r i r')
    (h : r'.STATUS.OK = true) (hop : r'.STATUS.LASTOP = 1) :
    1 ≤ r'.RS.toNat ∧ r'.RS.toNat ≤ 25 := by
  rw [he.LASTOP_eq] at hop
  cases he with
  | sinvFound c hc =>
    obtain ⟨hpos, hle, -⟩ := scalarInverse_some _ c hc
    have hread := bits32_toNat c (by omega) (by omega)
    simp only [setStatus_RS, setScalarResult_RS, hread]
    omega
  | sinvFailed | minvFailed => cases h
  | _ => exact absurd hop (by decide)

/-- R32: a command leaves RM as it was, or a matrix whose determinant is a unit. -/
theorem CommandEffect.matrixResult {r r' : Registers} {i : Instr} (he : CommandEffect r i r')
    (h : r.matrixResult = ⟨0, 0, 0, 0⟩ ∨ Int.gcd r.matrixResult.det 26 = 1) :
    r'.matrixResult = ⟨0, 0, 0, 0⟩ ∨ Int.gcd r'.matrixResult.det 26 = 1 := by
  cases he with
  | minvFound c hc =>
    obtain ⟨-, -, hinv⟩ := scalarInverse_some _ c hc
    have hcast : (r.matrix.det : ZMod 26) * c = 1 := by
      simpa using (emod_eq_one_iff_cast _).mp hinv
    have hresult := matrixResult_setMatrixResult_norm r (r.matrix.adj.scale c)
    refine .inr (gcd_eq_one_of_mul_cast (y := r.matrix.det) ?_)
    change ((r.setMatrixResult (r.matrix.adj.scale c).norm).matrixResult.det : ZMod 26) * _ = 1
    rw [hresult, cast_det_norm_scale_adj hcast, mul_comm, hcast]
  | _ => exact h

/-- The invariant speaks of the results, STATUS and, in reset, of the whole record. -/
theorem State.Inv.of_sameResults {s t : State} (h : s.Inv) (hres : s.regs.SameResults t.regs)
    (hreset : t.resetAsserted = true → t.regs = Registers.reset) : t.Inv := by
  obtain ⟨⟨⟩, _, _, _⟩ := t
  obtain ⟨rfl, rfl, rfl, rfl, rfl, rfl, rfl, rfl⟩ := hres
  exact { h with inRange := { h.inRange with }, resetHolds := hreset }

/-- R37: the reset values meet the invariant. -/
theorem inv_reset : State.reset.Inv where
  inRange := by constructor <;> decide
  oneFlag := rfl
  noFlagOnlyAfterReset _ := ⟨rfl, rfl, rfl, rfl, rfl, rfl, rfl, rfl⟩
  okOpcode := by decide
  noinvOpcode := by decide
  failedSinv := by decide
  goodSinv := by decide
  matrixResult := .inl rfl
  resetHolds _ := rfl

/-- R109: a state whose registers hold the reset values meets the invariant, in reset or out of it. -/
theorem inv_of_regs_eq_reset {s : State} (h : s.regs = Registers.reset) : s.Inv :=
  inv_reset.of_sameResults (h ▸ Registers.SameResults.refl _) fun _ => h

/-- A command keeps the invariant. -/
theorem CommandEffect.inv {s : State} {r' : Registers} {i : Instr} (he : CommandEffect s.regs i r')
    (h : s.Inv) (hr : s.resetAsserted = false) : (s.withRegs r').Inv where
  inRange := he.inRange h.inRange
  oneFlag := he.oneFlag.1
  noFlagOnlyAfterReset hno := absurd hno (Bool.eq_false_iff.mp he.oneFlag.2)
  okOpcode _ := he.LASTOP_eq ▸ opc_toNat_le i
  noinvOpcode := he.noinvOpcode
  failedSinv := he.failedSinv
  goodSinv := he.goodSinv
  matrixResult := he.matrixResult h.matrixResult
  resetHolds hreset := absurd hreset (Bool.eq_false_iff.mp hr)

/-- R90: an illegal word keeps the invariant. -/
theorem inv_illegalWord {s : State} (w : Word) (h : s.Inv) (hr : s.resetAsserted = false) :
    (s.withRegs (s.regs.setStatus (Status.illegalWord w))).Inv where
  inRange := { h.inRange with }
  oneFlag := rfl
  noFlagOnlyAfterReset hno := absurd hno Bool.false_ne_true
  okOpcode hok := absurd hok Bool.false_ne_true
  noinvOpcode hnoinv := absurd hnoinv Bool.false_ne_true
  failedSinv hnoinv := absurd hnoinv Bool.false_ne_true
  goodSinv hok := absurd hok Bool.false_ne_true
  matrixResult := h.matrixResult
  resetHolds hreset := absurd hreset (Bool.eq_false_iff.mp hr)

/-- R61: a command word keeps the invariant. -/
theorem inv_wordRegs {s : State} (w : Word) (h : s.Inv) (hr : s.resetAsserted = false) :
    (s.withRegs (wordRegs w s.regs)).Inv := by
  obtain ⟨i, -, hw⟩ | ⟨-, hw⟩ := wordRegs_cases w s.regs
  · rw [hw]
    exact (commandRegs_effect i s.regs).inv h hr
  · rw [hw]
    exact inv_illegalWord w h hr

/-- An access keeps the invariant. -/
theorem AccessEffect.inv {a : Access} {s t : State} (he : AccessEffect a s t) (h : s.Inv)
    (hr : s.resetAsserted = false) : t.Inv := by
  cases he with
  | observed x => exact h.of_sameResults (.refl _) h.resetHolds
  | ignored => exact h
  | stored name w _ _ =>
    exact h.of_sameResults ((Registers.SameResults.refl _).setOperand name w)
      fun hreset => absurd hreset (Bool.eq_false_iff.mp hr)
  | executed w _ => exact inv_wordRegs w h hr

/-- R109: releasing the reset input while it is asserted. -/
theorem driveReset_false_of_asserted (s : State) (h : s.resetAsserted = true) :
    s.driveReset false = { s with regs := Registers.reset, resetAsserted := false } := by
  simp [State.driveReset, h]

/-- R109, log 7: releasing a reset input that is not asserted changes nothing. -/
theorem driveReset_false_of_released (s : State) (h : s.resetAsserted = false) :
    s.driveReset false = s := by
  simp [State.driveReset, h]

/-- R109: driving the reset input leaves the reset values, or the registers of a unit outside of reset. -/
theorem driveReset_regs (s : State) (asserted : Bool) :
    (s.driveReset asserted).regs = Registers.reset ∨
      asserted = false ∧ (s.driveReset asserted).regs = s.regs := by
  cases asserted with
  | true => exact .inl rfl
  | false =>
    cases hr : s.resetAsserted with
    | true => exact .inl (by rw [driveReset_false_of_asserted s hr])
    | false => exact .inr ⟨rfl, by rw [driveReset_false_of_released s hr]⟩

/-- Driving the reset input keeps the invariant. -/
theorem inv_driveReset {s : State} (asserted : Bool) (h : s.Inv) : (s.driveReset asserted).Inv := by
  obtain hreset | ⟨hfalse, hsame⟩ := driveReset_regs s asserted
  · exact inv_of_regs_eq_reset hreset
  · exact h.of_sameResults (hsame ▸ Registers.SameResults.refl _) (by simp [hfalse])

/-- Taking an event from the list keeps the invariant. -/
theorem State.Inv.withPending {s : State} (h : s.Inv) (rest : List HostEvent) :
    State.Inv { s with pending := rest } :=
  h.of_sameResults (.refl _) h.resetHolds

/-- Every step keeps the invariant. -/
theorem StepEffect.inv {s t : State} (hs : StepEffect s t) (h : s.Inv) : t.Inv := by
  cases hs with
  | idle => exact h
  | access a rest _ hr _ _ he => exact he.inv (h.withPending rest) hr
  | reset asserted rest _ => exact inv_driveReset asserted (h.withPending rest)
  | power => exact inv_of_regs_eq_reset rfl

end Sys2Proof.Machine

open Sys2Proof Sys2Proof.Machine

/-- Settles O6. -/
theorem invariantAtReset : Obligations.InvariantAtReset := by
  unfold Obligations.InvariantAtReset
  exact inv_reset

/-- Settles O7 by the inversion of `step`: a command word is the one event that writes a result, and its
effects keep each clause. -/
theorem invariantKeptByEveryStep : Obligations.InvariantKeptByEveryStep := by
  unfold Obligations.InvariantKeptByEveryStep
  intro s t h hst
  exact (step_effect s t hst).inv h

end

section
/-! What a step does to the operand registers, and the run of a host that keeps its duties
(10_state.md R18 to R20, R39; 20_memory.md R49, R57, R58; 70_reset_and_hazards.md R110, R117). -/

namespace Sys2Proof.Machine

/-- R17: records with the same operands read the same at every operand register. -/
theorem Registers.SameOperands.get_eq {r r' : Registers} (h : r.SameOperands r') {name : Reg}
    (hrw : name.rights = .readWrite) : r'.get name = r.get name := by
  obtain ⟨h00, h01, h10, h11, hv0, hv1, hsa⟩ := h
  cases name with
  | M00 => exact h00
  | M01 => exact h01
  | M10 => exact h10
  | M11 => exact h11
  | V0 => exact hv0
  | V1 => exact hv1
  | SA => exact hsa
  | _ => cases hrw

/-- R33: records with the same results read the same at every read-only register. -/
theorem Registers.SameResults.get_eq {r r' : Registers} (h : r.SameResults r') {name : Reg}
    (hro : name.rights = .readOnly) : r'.get name = r.get name := by
  obtain ⟨hst, hrs, hv0, hv1, h00, h01, h10, h11⟩ := h
  cases name with
  | STATUS => exact congrArg Status.toWord hst
  | RS => exact hrs
  | RV0 => exact hv0
  | RV1 => exact hv1
  | RM00 => exact h00
  | RM01 => exact h01
  | RM10 => exact h10
  | RM11 => exact h11
  | _ => cases hro

/-- R17: a command word writes no operand register. -/
theorem wordRegs_sameOperands (w : Word) (r : Registers) : r.SameOperands (wordRegs w r) := by
  obtain ⟨i, -, hw⟩ | ⟨-, hw⟩ := wordRegs_cases w r
  · rw [hw]
    exact (commandRegs_effect i r).sameOperands
  · rw [hw]
    exact ⟨rfl, rfl, rfl, rfl, rfl, rfl, rfl⟩

/-- R39: of the accesses, only a word write to an operand register changes it. -/
theorem AccessEffect.writes_of_operand_ne {a : Access} {s t : State} {name : Reg}
    (he : AccessEffect a s t) (hrw : name.rights = .readWrite)
    (hne : t.regs.get name ≠ s.regs.get name) : (HostEvent.access a).writes name = true := by
  cases he with
  | observed x => exact absurd rfl hne
  | ignored => exact absurd rfl hne
  | stored target w hr hw =>
    by_cases hname : name = target
    · rw [hname]
      exact hw
    · exact absurd ((setOperand_get s.regs target name w hr).trans (if_neg hname)) hne
  | executed w _ => exact absurd ((wordRegs_sameOperands w s.regs).get_eq hrw) hne

/-- R39: of the events, only a word write to an operand register, reset and power change it. -/
theorem StepEffect.event_of_operand_ne {s t : State} {name : Reg} (hs : StepEffect s t)
    (hrw : name.rights = .readWrite) (hne : t.regs.get name ≠ s.regs.get name) :
    ∃ e rest, s.pending = e :: rest ∧ (e.writes name = true ∨ e.resets = true) := by
  cases hs with
  | idle => exact absurd rfl hne
  | access a rest hp _ _ _ he => exact ⟨_, rest, hp, .inl (he.writes_of_operand_ne hrw hne)⟩
  | reset asserted rest hp => exact ⟨_, rest, hp, .inr rfl⟩
  | power rest hp => exact ⟨_, rest, hp, .inr rfl⟩

/-- R39: a step that neither writes an operand register nor resets the unit keeps the register. -/
theorem StepEffect.operand_eq {s t : State} {name : Reg} (hs : StepEffect s t)
    (hrw : name.rights = .readWrite)
    (hkeep : ∀ e ∈ s.pending.head?, e.writes name = false ∧ e.resets = false) :
    t.regs.get name = s.regs.get name := by
  by_contra hne
  obtain ⟨e, rest, hp, hev⟩ := hs.event_of_operand_ne hrw hne
  obtain ⟨hw, hreset⟩ := hkeep e (by simp [hp])
  simp [hw, hreset] at hev

/-- An access leaves the reset input and the host's list alone. -/
theorem AccessEffect.resetAsserted_pending_eq {a : Access} {s t : State} (he : AccessEffect a s t) :
    t.resetAsserted = s.resetAsserted ∧ t.pending = s.pending := by
  cases he <;> exact ⟨rfl, rfl⟩

/-- R109: a step that does not reset the unit keeps the level of the reset input. -/
theorem StepEffect.resetAsserted_eq {s t : State} (hs : StepEffect s t)
    (hkeep : ∀ e ∈ s.pending.head?, e.resets = false) : t.resetAsserted = s.resetAsserted := by
  cases hs with
  | idle => rfl
  | access a rest _ _ _ _ he => exact he.resetAsserted_pending_eq.1
  | reset b rest hp => exact absurd (hkeep (.driveReset b) (by simp [hp])) (by simp [HostEvent.resets])
  | power rest hp => exact absurd (hkeep .powerCycle (by simp [hp])) (by simp [HostEvent.resets])

/-- R57, R110: the next event of a host that keeps its duties is performed, and the host keeps them on. -/
theorem step_of_hostObeys (s : State) (e : HostEvent) (es rest : List HostEvent)
    (hp : s.pending = e :: rest) (h : hostObeys s.resetAsserted (e :: es) = true) :
    ∃ t, step s = .next t ∧ t.pending = rest ∧ hostObeys t.resetAsserted es = true := by
  rw [step_cons s e rest hp]
  cases e with
  | access a =>
    simp only [hostObeys, Bool.and_eq_true, Bool.not_eq_true'] at h
    obtain ⟨⟨hr, hw⟩, hes⟩ := h
    obtain ⟨t, ht, he⟩ := performAccess_next a { s with pending := rest } hr hw
    obtain ⟨hlevel, hrest⟩ := he.resetAsserted_pending_eq
    exact ⟨t, ht, hrest, by rw [hlevel]; exact hr ▸ hes⟩
  | driveReset b => exact ⟨_, rfl, driveReset_pending _ b, by rw [driveReset_resetAsserted]; exact h⟩
  | resetDuring a => cases h
  | powerCycle => exact ⟨_, rfl, rfl, h⟩

/-- R58, R120: a host that keeps its duties has every event performed; what every step on a good event
keeps holds at the end of a run of good events. -/
theorem run_of_hostObeys {P : State → Prop} {good : HostEvent → Prop}
    (hkeeps : ∀ s t, StepEffect s t → (∀ e ∈ s.pending.head?, good e) → P s → P t)
    (es rest : List HostEvent) (s : State) (hp : s.pending = es ++ rest)
    (h : hostObeys s.resetAsserted es = true) (hgood : ∀ e ∈ es, good e) (hP : P s) :
    ∃ t, core.run es.length s = .next t ∧ t.pending = rest ∧ P t := by
  induction es generalizing s with
  | nil => exact ⟨s, rfl, hp, hP⟩
  | cons e es ih =>
    obtain ⟨t, hst, hpt, ht⟩ := step_of_hostObeys s e es (es ++ rest) hp h
    have hPt : P t := hkeeps s t (step_effect s t hst) (by simpa [hp] using hgood e) hP
    rw [List.length_cons, run_succ _ _ _ hst]
    exact ih t hpt ht (fun e' he' => hgood e' (List.mem_cons_of_mem e he')) hPt

/-- One step on a register's aligned word read (R43). -/
theorem step_readOf (s : State) (name : Reg) (rest : List HostEvent) (hp : s.pending = readOf name :: rest)
    (hr : s.resetAsserted = false) :
    step s = .next (State.observe { s with pending := rest } (.word (s.regs.get name))) :=
  (step_cons s _ rest hp).trans (perform_readOf name _ hr)

/-- One step on an operand register's aligned word write (R44). -/
theorem step_writeOf_operand (s : State) (name : Reg) (w : Word) (rest : List HostEvent)
    (hp : s.pending = writeOf name w :: rest) (hr : s.resetAsserted = false)
    (hrw : name.rights = .readWrite) :
    step s = .next (State.withRegs { s with pending := rest } (s.regs.setOperand name w)) :=
  (step_cons s _ rest hp).trans (perform_writeOf_operand name w _ hr hrw)

/-- R49: a run of good events, and then a read, ends with the read's word as the last observation. -/
theorem run_then_readOf {P : State → Prop} {good : HostEvent → Prop}
    (hkeeps : ∀ s t, StepEffect s t → (∀ e ∈ s.pending.head?, good e) → P s → P t)
    (hreset : ∀ s, P s → s.resetAsserted = false)
    (es : List HostEvent) (name : Reg) (s : State) (hp : s.pending = es ++ [readOf name])
    (h : hostObeys false es = true) (hgood : ∀ e ∈ es, good e) (hP : P s) :
    ∃ u, P u ∧ core.run (es.length + 1) s =
      .next (State.observe { u with pending := [] } (.word (u.regs.get name))) := by
  obtain ⟨u, hrun, hpu, hPu⟩ :=
    run_of_hostObeys hkeeps es [readOf name] s hp (by rw [hreset s hP]; exact h) hgood hP
  refine ⟨u, hPu, ?_⟩
  rw [run_add _ _ _ _ hrun, run_succ _ _ _ (step_readOf u name [] hpu (hreset u hPu))]
  rfl

/-- Outside of reset, with an operand register at a word (R49). -/
def OperandHolds (name : Reg) (w : Word) (s : State) : Prop :=
  s.resetAsserted = false ∧ s.regs.get name = w

/-- Outside of reset, with the results and STATUS of a record (R117). -/
def ResultsHold (r : Registers) (s : State) : Prop :=
  s.resetAsserted = false ∧ r.SameResults s.regs

/-- A step that neither writes the operand register nor resets the unit keeps the register's word. -/
theorem operandHolds_step {name : Reg} {w : Word} (hrw : name.rights = .readWrite) (s t : State)
    (hs : StepEffect s t)
    (hkeep : ∀ e ∈ s.pending.head?, e.writes name = false ∧ e.resets = false)
    (h : OperandHolds name w s) : OperandHolds name w t :=
  ⟨(hs.resetAsserted_eq fun e he => (hkeep e he).2).trans h.1, (hs.operand_eq hrw hkeep).trans h.2⟩

/-- A step that neither writes CMD nor resets the unit keeps the results and STATUS. -/
theorem resultsHold_step {r : Registers} (s t : State) (hs : StepEffect s t)
    (hkeep : ∀ e ∈ s.pending.head?, e.writes .CMD = false ∧ e.resets = false)
    (h : ResultsHold r s) : ResultsHold r t :=
  ⟨(hs.resetAsserted_eq fun e he => (hkeep e he).2).trans h.1, hs.sameResults h.2 hkeep⟩

end Sys2Proof.Machine

open Sys2Proof Sys2Proof.Machine

/-- Settles O13 by the inversion of `step`. -/
theorem operandsChangeOnlyByHostWrite : Obligations.OperandsChangeOnlyByHostWrite := by
  unfold Obligations.OperandsChangeOnlyByHostWrite
  intro s t r hst hrw hne
  exact (step_effect s t hst).event_of_operand_ne hrw hne

/-- Settles O15 by induction on the list of events. -/
theorem dutifulRunCompletes : Obligations.DutifulRunCompletes := by
  unfold Obligations.DutifulRunCompletes
  intro s h
  obtain ⟨t, hrun, hpt, -⟩ :=
    run_of_hostObeys (P := fun _ => True) (good := fun _ => True) (fun _ _ _ _ _ => trivial)
      s.pending [] s (List.append_nil _).symm h (fun _ _ => trivial) trivial
  exact ⟨t, hrun, hpt⟩

/-- Settles O12: the write puts the word into the register, every step between keeps it, and the read
returns it. -/
theorem operandReadReturnsLatestWrite : Obligations.OperandReadReturnsLatestWrite := by
  unfold Obligations.OperandReadReturnsLatestWrite
  intro s r w es hr hrw hobeys hkeep
  have hwrite := step_writeOf_operand { s with pending := writeOf r w :: (es ++ [readOf r]) } r w _
    rfl hr hrw
  have hholds : OperandHolds r w (State.withRegs { s with pending := es ++ [readOf r] }
      (s.regs.setOperand r w)) :=
    ⟨hr, (setOperand_get s.regs r r w hrw).trans (if_pos rfl)⟩
  obtain ⟨u, ⟨-, hu⟩, hrun⟩ := run_then_readOf (operandHolds_step hrw) (fun _ h => h.1) es r _ rfl
    hobeys hkeep hholds
  refine ⟨_, (run_succ (es.length + 1) _ _ hwrite).trans hrun, rfl, ?_⟩
  rw [observe_observed, hu, List.getLast?_concat]

/-- Settles O44: every step of the list keeps the results and STATUS, and the read returns one of them. -/
theorem resultsKeptUntilNextCommand : Obligations.ResultsKeptUntilNextCommand := by
  unfold Obligations.ResultsKeptUntilNextCommand
  intro s r es hr hro hobeys hkeep
  obtain ⟨u, ⟨-, hu⟩, hrun⟩ := run_then_readOf (P := ResultsHold s.regs) resultsHold_step
    (fun _ h => h.1) es r { s with pending := es ++ [readOf r] } rfl hobeys hkeep ⟨hr, .refl _⟩
  refine ⟨_, hrun, hu, rfl, ?_⟩
  rw [observe_observed, hu.get_eq hro, List.getLast?_concat]

end

section
/-! Two command words in a row: the same one twice, and any one after one that failed
(20_memory.md R56; 60_exceptions.md R100, R103). -/

namespace Sys2Proof.Machine

/-- R56: a command reads no register that it writes. -/
theorem commandRegs_idempotent (i : Instr) (r : Registers) :
    commandRegs i (commandRegs i r) = commandRegs i r := by
  have heffect := commandRegs_effect i r
  generalize commandRegs i r = r' at heffect
  cases heffect with
  | nop | det | mvmul => rfl
  | sinvFound c h => exact sinvRegs_some _ c h
  | sinvFailed h => exact sinvRegs_none _ h
  | minvFound c h => exact minvRegs_some _ c h
  | minvFailed h => exact minvRegs_none _ h

/-- R56: a command word reads no register that it writes. -/
theorem wordRegs_idempotent (w : Word) (r : Registers) :
    wordRegs w (wordRegs w r) = wordRegs w r := by
  obtain ⟨i, rfl, -⟩ | ⟨-, hw⟩ := wordRegs_cases w r
  · simp only [wordRegs_encode, commandRegs_idempotent]
  · rw [hw, wordRegs_setStatus, hw]

/-- Two records that agree on every register but RS. -/
def Registers.AgreeButRS (r r' : Registers) : Prop :=
  { r with RS := 0 } = ({ r' with RS := 0 } : Registers)

/-- R62: no command reads RS. -/
theorem commandRegs_setScalarResult (i : Instr) (r : Registers) (v : Int) :
    (commandRegs i (r.setScalarResult v)).AgreeButRS (commandRegs i r) := by
  have heffect := commandRegs_effect i r
  generalize commandRegs i r = r' at heffect
  cases heffect with
  | nop | det | mvmul => rfl
  | sinvFound c h => rw [commandRegs, sinvRegs_some (r.setScalarResult v) c h]; rfl
  | sinvFailed h => rw [commandRegs, sinvRegs_none (r.setScalarResult v) h]; rfl
  | minvFound c h => rw [commandRegs, minvRegs_some (r.setScalarResult v) c h]; rfl
  | minvFailed h => rw [commandRegs, minvRegs_none (r.setScalarResult v) h]; rfl

/-- R62: no command word reads RS. -/
theorem wordRegs_setScalarResult (w : Word) (r : Registers) (v : Int) :
    (wordRegs w (r.setScalarResult v)).AgreeButRS (wordRegs w r) := by
  obtain ⟨i, rfl, -⟩ | ⟨hne, hw⟩ := wordRegs_cases w r
  · rw [wordRegs_encode, wordRegs_encode]
    exact commandRegs_setScalarResult i r v
  · rw [hw, wordRegs_of_ne_encode w _ hne]
    rfl

/-- R100: a word that does not set OK is a SINV that failed, or it writes STATUS only. -/
theorem wordRegs_of_not_OK (w : Word) (r : Registers) (h : (wordRegs w r).STATUS.OK = false) :
    (w = 1 ∧ wordRegs w r = (r.setScalarResult 0).setStatus (Status.notInvertible 1)) ∨
      ∃ st, wordRegs w r = r.setStatus st := by
  obtain ⟨i, rfl, hw⟩ | ⟨-, hw⟩ := wordRegs_cases w r
  · rw [hw] at h ⊢
    have heffect := commandRegs_effect i r
    generalize commandRegs i r = r' at heffect h
    cases heffect with
    | sinvFailed => exact .inl ⟨rfl, rfl⟩
    | minvFailed => exact .inr ⟨_, rfl⟩
    | _ => cases h
  · exact .inr ⟨_, hw⟩

/-- Two steps on the writes of two command words. -/
theorem step_commandWrite_twice (s : State) (w w' : Word) (rest : List HostEvent)
    (hr : s.resetAsserted = false) :
    ∃ t u : State,
      step { s with pending := commandWrite w :: commandWrite w' :: rest } = .next t ∧
      step t = .next u ∧ t.regs = wordRegs w s.regs ∧
      u.regs = wordRegs w' (wordRegs w s.regs) ∧ u.pending = rest :=
  ⟨_, _, step_commandWrite s w _ hr, step_commandWrite (s.withRegs (wordRegs w s.regs)) w' rest hr,
    rfl, rfl, rfl⟩

end Sys2Proof.Machine

open Sys2Proof Sys2Proof.Machine

/-- Settles O14. -/
theorem commandWriteIsIdempotent : Obligations.CommandWriteIsIdempotent := by
  unfold Obligations.CommandWriteIsIdempotent
  intro s w rest hr
  obtain ⟨t, u, hst, hsu, ht, hu, hrest⟩ := step_commandWrite_twice s w w rest hr
  exact ⟨t, u, hst, hsu, by rw [hu, ht, wordRegs_idempotent], hrest⟩

/-- Settles O43: a word that failed left STATUS, which no command reads, and after a SINV also RS, which
no command reads either. -/
theorem errorsLeaveNoStickyState : Obligations.ErrorsLeaveNoStickyState := by
  unfold Obligations.ErrorsLeaveNoStickyState
  intro s w w' rest hr
  obtain ⟨t, u, hst, hsu, ht, hu, -⟩ := step_commandWrite_twice s w w' rest hr
  refine ⟨t, u, _, hst, hsu, step_commandWrite s w' rest hr, fun hfail hne => ?other,
    fun hfail _ => ?sinv⟩
  case other =>
    rw [ht] at hfail
    obtain ⟨rfl, -⟩ | ⟨st, hw⟩ := wordRegs_of_not_OK w s.regs hfail
    · exact absurd rfl hne
    · rw [hu, hw, wordRegs_setStatus]
      rfl
  case sinv =>
    rw [ht] at hfail
    obtain ⟨-, hw⟩ | ⟨st, hw⟩ := wordRegs_of_not_OK w s.regs hfail
    · rw [hu, hw, wordRegs_setStatus]
      exact wordRegs_setScalarResult w' s.regs 0
    · rw [hu, hw, wordRegs_setStatus]
      rfl

end

section
/-! The words of the bus and of the commands as numbers: byte lanes, the words the decoder rejects, the
opcode table, and STATUS (20_memory.md R47; 30_encoding.md R59 to R65, R70; 10_state.md R23). -/

namespace Sys2Proof

/-- R47: lane 0 is the least significant byte. -/
theorem wordOfLanes_cons_toNat (b : Byte) (lanes : List Byte) (h : (wordOfLanes lanes).toNat < 2 ^ 24) :
    (wordOfLanes (b :: lanes)).toNat = b.toNat + 2 ^ 8 * (wordOfLanes lanes).toNat := by
  have hshift : (wordOfLanes lanes).toNat <<< 8 % 2 ^ 32 = (wordOfLanes lanes).toNat <<< 8 :=
    Nat.mod_eq_of_lt (by rw [Nat.shiftLeft_eq]; omega)
  have hbyte : b.toNat % 2 ^ 32 = b.toNat := Nat.mod_eq_of_lt (by omega)
  rw [wordOfLanes, BitVec.toNat_or, BitVec.toNat_shiftLeft, BitVec.toNat_setWidth, hshift, hbyte,
    ← Nat.shiftLeft_add_eq_or_of_lt b.isLt, Nat.shiftLeft_eq, Nat.mul_comm, Nat.add_comm]

/-- R47: k lanes, of at most four, carry a word below 2^(8k). -/
theorem wordOfLanes_toNat_lt (lanes : List Byte) (h : lanes.length ≤ 4) :
    (wordOfLanes lanes).toNat < 2 ^ (8 * lanes.length) := by
  induction lanes with
  | nil => decide
  | cons b lanes ih =>
    rw [List.length_cons] at h ⊢
    have hrest := ih (by omega)
    have hpow : 2 ^ (8 * lanes.length) ≤ 2 ^ 24 := Nat.pow_le_pow_right (by decide) (by omega)
    rw [wordOfLanes_cons_toNat b lanes (by omega), Nat.mul_succ, Nat.pow_add]
    omega

/-- R47: the word of four lanes. -/
theorem wordOfLanes_four_toNat (b0 b1 b2 b3 : Byte) :
    (wordOfLanes [b0, b1, b2, b3]).toNat =
      b0.toNat + 2 ^ 8 * b1.toNat + 2 ^ 16 * b2.toNat + 2 ^ 24 * b3.toNat := by
  have hthree := wordOfLanes_toNat_lt [b1, b2, b3] (by simp)
  have htwo := wordOfLanes_toNat_lt [b2, b3] (by simp)
  have hone := wordOfLanes_toNat_lt [b3] (by simp)
  simp only [List.length_cons, List.length_nil] at hthree htwo hone
  rw [wordOfLanes_cons_toNat _ _ (by omega), wordOfLanes_cons_toNat _ _ (by omega),
    wordOfLanes_cons_toNat _ _ (by omega), wordOfLanes_cons_toNat _ _ (by decide)]
  simp only [wordOfLanes, BitVec.ofNat_eq_ofNat, BitVec.toNat_zero]
  omega

/-- R60: the RSV field is the word's number without its low four bits. -/
theorem rsvField_toNat (w : Word) : (rsvField w).toNat = w.toNat / 16 := by
  rw [rsvField, BitVec.extractLsb'_toNat, Nat.shiftRight_eq_div_pow]
  omega

/-- R60: below 16 a word has no bit of RSV set. -/
theorem rsvField_eq_zero_iff (w : Word) : rsvField w = 0 ↔ w.toNat < 16 := by
  rw [← BitVec.toNat_inj, rsvField_toNat]
  simp [Nat.div_eq_zero_iff]

/-- R63: an OPC above 4 is reserved. -/
theorem ofOpc_of_four_lt (opc : Nibble) (h : 4 < opc.toNat) : ofOpc opc = none := by
  refine Option.eq_none_iff_forall_ne_some.mpr fun i hi => ?_
  rw [(ofOpc_eq_some_iff opc i).mp hi] at h
  exact absurd (opc_toNat_le i) (by omega)

/-- R61: a word with a bit of RSV set is rejected for it. -/
theorem decode_of_sixteen_le (w : Word) (h : 16 ≤ w.toNat) : decode w = .error .reservedBitsSet := by
  have hrsv : rsvField w ≠ 0 := fun h0 => absurd ((rsvField_eq_zero_iff w).mp h0) (by omega)
  rw [decode, if_pos hrsv]

/-- R63, R66: a word from 5 to 15 is rejected for its OPC. -/
theorem decode_of_reserved_opcode (w : Word) (h5 : 5 ≤ w.toNat) (h16 : w.toNat < 16) :
    decode w = .error (.reservedOpcode (opcField w)) := by
  have hrsv : rsvField w = 0 := (rsvField_eq_zero_iff w).mpr h16
  have hopc : ofOpc (opcField w) = none :=
    ofOpc_of_four_lt _ (by rw [opcField_eq_ofNat, BitVec.toNat_ofNat]; omega)
  rw [decode, if_neg (not_not.mpr hrsv), hopc]

/-- R59: what bytes decode to a command are one word, and the word decodes to it. -/
theorem decodeBytes_eq_ok {lanes : List Byte} {i : Instr} (h : decodeBytes lanes = .ok i) :
    lanes.length = 4 ∧ decode (wordOfLanes lanes) = .ok i := by
  unfold decodeBytes at h
  split at h
  next hlen => exact ⟨hlen, h⟩
  · cases h

/-- R63: no two commands have one word. -/
theorem encode_injective : Function.Injective encode := by
  intro i j h
  have hi := (decode_eq_ok_iff (encode i) i).mpr rfl
  rw [h, (decode_eq_ok_iff (encode j) j).mpr rfl] at hi
  cases hi
  rfl

/-- R64: each row's mask covers the whole word and its match is its command's word. -/
theorem mask_match_of_mem {row : OpcodeRow} (h : row ∈ opcodeTable) :
    row.mask = BitVec.allOnes 32 ∧ row.matchWord = encode row.instr := by
  revert row
  decide

/-- R64, R70: a row of the table matches its command's word, and no other. -/
theorem hits_iff_of_mem {row : OpcodeRow} (h : row ∈ opcodeTable) (w : Word) :
    row.hits w = true ↔ w = encode row.instr := by
  obtain ⟨hmask, hmatch⟩ := mask_match_of_mem h
  rw [OpcodeRow.hits, hmask, hmatch, BitVec.and_allOnes, beq_iff_eq]

/-- R70: the table has one row per command. -/
theorem opcodeTable_instr_pairwise_ne : opcodeTable.Pairwise (fun a b => a.instr ≠ b.instr) := by
  decide

/-- R70: no two rows of the table match one word. -/
theorem opcodeTable_hits_pairwise (w : Word) :
    opcodeTable.Pairwise (fun a b => ¬(a.hits w = true ∧ b.hits w = true)) := by
  refine opcodeTable_instr_pairwise_ne.imp_of_mem fun {a b} ha hb hne ⟨hhit, hhit'⟩ => ?_
  rw [hits_iff_of_mem ha] at hhit
  rw [hits_iff_of_mem hb] at hhit'
  exact hne (encode_injective (hhit.symm.trans hhit'))

/-- R63: the statement of the family EncodeDecode, for every command. -/
theorem encodeDecode_statement (i : Instr) : Laws.EncodeDecode.Statement i := by
  cases i with
  | nop => exact Laws.EncodeDecode.nop
  | sinv => exact Laws.EncodeDecode.sinv
  | det => exact Laws.EncodeDecode.det
  | minv => exact Laws.EncodeDecode.minv
  | mvmul => exact Laws.EncodeDecode.mvmul

/-- R70: the table's decoder reads a command from its word. -/
theorem tableDecode_encode (i : Instr) : tableDecode (encode i) = some i := by
  obtain ⟨-, -, -, h, -⟩ := encodeDecode_statement i
  exact h

/-- R70: the table's decoder reads nothing from a word that is no command's word. -/
theorem tableDecode_of_ne_encode (w : Word) (h : ∀ i, w ≠ encode i) : tableDecode w = none := by
  rw [tableDecode, List.find?_eq_none.mpr, Option.map_none]
  exact fun row hrow hhit => h row.instr ((hits_iff_of_mem hrow w).mp hhit)

/-- R70: the two decoders agree. -/
theorem tableDecode_eq (w : Word) : tableDecode w = (decode w).toOption := by
  obtain ⟨i, rfl⟩ | ⟨hne, e, he⟩ := exists_eq_encode_or_decode_error w
  · rw [tableDecode_encode, (decode_eq_ok_iff _ i).mpr rfl]
    rfl
  · rw [tableDecode_of_ne_encode w hne, he]
    rfl

/-- R64: the legal words. -/
theorem exists_decode_eq_ok_iff (w : Word) :
    (∃ i, decode w = .ok i) ↔ w = 0 ∨ w = 1 ∨ w = 2 ∨ w = 3 ∨ w = 4 := by
  simp only [decode_eq_ok_iff]
  constructor
  · rintro ⟨i, rfl⟩
    cases i <;> decide
  · rintro (h | h | h | h | h)
    · exact ⟨.nop, h⟩
    · exact ⟨.sinv, h⟩
    · exact ⟨.det, h⟩
    · exact ⟨.minv, h⟩
    · exact ⟨.mvmul, h⟩

/-- Appending a field below a word. -/
theorem toNat_append_eq {m n : Nat} (x : BitVec m) (y : BitVec n) :
    (x ++ y).toNat = x.toNat * 2 ^ n + y.toNat := by
  rw [BitVec.toNat_append, ← Nat.shiftLeft_add_eq_or_of_lt y.isLt, Nat.shiftLeft_eq]

namespace Machine

/-- R23: the STATUS word as a number. -/
theorem Status.toWord_toNat (st : Status) :
    st.toWord.toNat = st.OK.toNat + 2 * st.NOINV.toNat + 4 * st.ILLEGAL.toNat + 16 * st.LASTOP.toNat := by
  simp only [Status.toWord, toNat_append_eq, BitVec.toNat_ofBool,
    BitVec.ofNat_eq_ofNat, BitVec.toNat_zero]
  omega

/-- R44, R61: one step on the write of four lanes at CMD executes the word they carry. -/
theorem step_write_CMD (s : State) (lanes : List Byte) (rest : List HostEvent)
    (hr : s.resetAsserted = false) (hlen : lanes.length = 4) :
    step { s with pending := .access (.write 0x1C lanes) :: rest } =
      executeWord (wordOfLanes lanes) { s with pending := rest } :=
  step_write (off := Reg.CMD.offset) rest hr (by decide) lanes hlen (by decide)

/-- R61: a word that decodes to a command executes it. -/
theorem executeWord_of_decode {w : Word} {i : Instr} (h : decode w = .ok i) (s : State) :
    executeWord w s = exec i s := by
  rw [executeWord, h]

end Machine

end Sys2Proof

open Sys2Proof Sys2Proof.Machine

/-- Settles O10: lane by lane for a word written, and by the four extracts for the lanes of a word. -/
theorem lanesAreLittleEndian : Obligations.LanesAreLittleEndian := by
  unfold Obligations.LanesAreLittleEndian
  refine fun b0 b1 b2 b3 w => ⟨wordOfLanes_four_toNat b0 b1 b2 b3, fun k hk => ?_, lanesOfWord_length w⟩
  interval_cases k <;> rfl

/-- Settles O18. -/
theorem legalWordsAreExactlyFive : Obligations.LegalWordsAreExactlyFive := by
  unfold Obligations.LegalWordsAreExactlyFive
  exact fun w => ⟨decode_eq_ok_iff w, exists_decode_eq_ok_iff w⟩

/-- Settles O19: from 16 up by RSV, from 5 to 15 by OPC, and other lengths before any decoding. -/
theorem rejectedWordsByName : Obligations.RejectedWordsByName := by
  unfold Obligations.RejectedWordsByName
  refine ⟨fun w => ⟨decode_of_sixteen_le w, fun h5 h16 => ?opcode⟩, fun lanes hlen => ?length⟩
  case opcode => rw [decode_of_reserved_opcode w h5 h16, opcField_eq_ofNat]
  case length => rw [decodeBytes, if_neg hlen]

/-- Settles O20: a row matches its command's word only, so the first match is the decoder's command. -/
theorem tableDecoderAgrees : Obligations.TableDecoderAgrees := by
  unfold Obligations.TableDecoderAgrees
  exact fun w => ⟨tableDecode_eq w, opcodeTable_hits_pairwise w⟩

/-- Settles O5. -/
theorem statusWordLayout : Obligations.StatusWordLayout := by
  unfold Obligations.StatusWordLayout
  exact fun r => r.STATUS.toWord_toNat

/-- Settles O16. -/
theorem encodedCommandDecodes : Obligations.EncodedCommandDecodes := by
  unfold Obligations.EncodedCommandDecodes
  exact fun i _ => encodeDecode_statement i

/-- Settles O17: five command words, a word from 5 to 15, and a word from 16 up. -/
theorem specWordsDecode : Obligations.SpecWordsDecode := by
  unfold Obligations.SpecWordsDecode
  have hlegal (i : Instr) : decode (encode i) = .ok i := (decode_eq_ok_iff _ i).mpr rfl
  exact ⟨hlegal .nop, hlegal .sinv, hlegal .det, hlegal .minv, hlegal .mvmul,
    decode_of_reserved_opcode 5 (by decide) (by decide), decode_of_sixteen_le 0x11 (by decide)⟩

/-- Settles O21: the word written, or carried by the lanes, decodes to the command and executes it. -/
theorem stepRunsDecodedCommand : Obligations.StepRunsDecodedCommand := by
  unfold Obligations.StepRunsDecodedCommand
  refine fun s i rest hr _ => ⟨fun w hw => ?word, fun lanes hlanes => ?lanes⟩
  case word =>
    rw [step_commandWrite s w rest hr, ← executeWord_of_decode hw, executeWord_eq]
  case lanes =>
    obtain ⟨hlen, hw⟩ := decodeBytes_eq_ok hlanes
    rw [step_write_CMD s lanes rest hr hlen, executeWord_of_decode hw]

end

section
/-! SINV by its argument's residue: the inverse, the lookup table, and what INVS observes
(40_scalar.md R72, R74; 30_encoding.md R69). -/

namespace Sys2Proof.Machine

/-- R74: an inverse mod 26 is unique in [1,25]. -/
theorem inverse_unique {a x y : Int} (hx : (a * x) % 26 = 1) (hy : (a * y) % 26 = 1)
    (hxr : 1 ≤ x ∧ x ≤ 25) (hyr : 1 ≤ y ∧ y ≤ 25) : y = x := by
  rw [emod_eq_one_iff_cast] at hx hy
  push_cast at hx hy
  have hcast : (y : ZMod 26) = x := by linear_combination (y : ZMod 26) * -hx + (x : ZMod 26) * hy
  have hres := (emod_eq_emod_iff_cast y x).mpr hcast
  omega

/-- R74: SINV's results by the residue of its argument, 0 where there is no inverse. -/
def sinvTable : List Word :=
  [0, 1, 0, 9, 0, 21, 0, 15, 0, 3, 0, 19, 0, 0, 0, 7, 0, 23, 0, 11, 0, 5, 0, 17, 0, 25]

/-- R72: the residues that have no inverse. -/
def sinvFailures : List Int := [0, 2, 4, 6, 8, 10, 12, 13, 14, 16, 18, 20, 22, 24]

/-- R74: the search is the table's lookup. -/
theorem scalarInverse_eq_table (a : Int) :
    bits32 ((scalarInverse a).getD 0) = sinvTable.getD (a % 26).toNat 0 ∧
      (scalarInverse a = none ↔ a % 26 ∈ sinvFailures) :=
  scalarInverse_residues (fun n found => bits32 (found.getD 0) = sinvTable.getD n.toNat 0 ∧
    (found = none ↔ n ∈ sinvFailures)) (by decide) a

/-- R71, R73: RS after SINV, the sentinel 0 where the search fails. -/
theorem sinvRegs_RS (r : Registers) : (sinvRegs r).RS = bits32 ((scalarInverse r.scalar).getD 0) := by
  cases h : scalarInverse r.scalar with
  | some c => rw [sinvRegs_some r c h]; rfl
  | none => rw [sinvRegs_none r h]; rfl

/-- R73: NOINV after SINV. -/
theorem sinvRegs_NOINV_iff (r : Registers) :
    (sinvRegs r).STATUS.NOINV = true ↔ scalarInverse r.scalar = none := by
  rw [sinvRegs_STATUS, scalarInverse_none]
  simp [commandStatus, commandSucceeds, Registers.scalar, sint32]

/-- R74: on a unit the search finds the one inverse in [1,25]. -/
theorem exists_unique_scalarInverse {a : Int} (h : Int.gcd a 26 = 1) :
    ∃ x : Nat, scalarInverse a = some (x : Int) ∧ 1 ≤ x ∧ x ≤ 25 ∧ (a * x) % 26 = 1 ∧
      ∀ y : Nat, 1 ≤ y → y ≤ 25 → (a * y) % 26 = 1 → y = x := by
  obtain ⟨c, hc⟩ := Option.isSome_iff_exists.mp ((scalarInverse_isSome a).mpr h)
  obtain ⟨hpos, hle, hinv⟩ := scalarInverse_some a c hc
  obtain ⟨x, rfl⟩ := Int.eq_ofNat_of_zero_le (show 0 ≤ c by omega)
  refine ⟨x, hc, by omega, by omega, hinv, fun y hy hy' hyinv => ?_⟩
  exact_mod_cast inverse_unique hinv hyinv ⟨hpos, hle⟩ ⟨by omega, by omega⟩

/-- R69: the registers after INVS. -/
def invsRegs (s : State) (a : Word) : Registers := sinvRegs (s.regs.setOperand .SA a)

/-- R69, R71: what INVS leaves for the two reads on a unit. -/
theorem invsRegs_of_some (s : State) (a : Word) (c : Int) (h : scalarInverse a.toInt = some c) :
    (invsRegs s a).STATUS.toWord = 0x11 ∧ (invsRegs s a).RS = bits32 c := by
  rw [invsRegs, sinvRegs_some (s.regs.setOperand .SA a) c h, setStatus_STATUS, setStatus_RS]
  exact ⟨by decide, rfl⟩

/-- R69, R73: what INVS leaves for the two reads on a non-unit. -/
theorem invsRegs_of_none (s : State) (a : Word) (h : scalarInverse a.toInt = none) :
    (invsRegs s a).STATUS.toWord = 0x12 ∧ (invsRegs s a).RS = 0 := by
  rw [invsRegs, sinvRegs_none (s.regs.setOperand .SA a) h, setStatus_STATUS, setStatus_RS]
  exact ⟨by decide, rfl⟩

/-- R69: INVS leaves its word in SA. -/
theorem invsRegs_SA (s : State) (a : Word) : (invsRegs s a).SA = a :=
  (commandRegs_effect .sinv (s.regs.setOperand .SA a)).sameOperands.get_eq (name := .SA) rfl

/-- R69: the four accesses of INVS. -/
theorem run_INVS (s : State) (a : Word) (hr : s.resetAsserted = false) :
    core.run 4 { s with pending := eventsOf (PseudoCommand.INVS (.hex a)).expand } =
      .next { s with
        regs := invsRegs s a
        pending := []
        observed := s.observed ++ [.word (invsRegs s a).STATUS.toWord, .word (invsRegs s a).RS] } := by
  have hwrite := step_writeOf_operand { s with pending := eventsOf (PseudoCommand.INVS (.hex a)).expand }
    .SA a [commandWrite (encode .sinv), readOf .STATUS, readOf .RS] rfl hr rfl
  have hsinv := step_commandWrite (s.withRegs (s.regs.setOperand .SA a)) (encode .sinv)
    [readOf .STATUS, readOf .RS] hr
  have hstatus := step_readOf { s with regs := invsRegs s a, pending := [readOf .STATUS, readOf .RS] }
    .STATUS [readOf .RS] rfl hr
  have hresult := step_readOf
    { s with
      regs := invsRegs s a
      pending := [readOf .RS]
      observed := s.observed ++ [.word (invsRegs s a).STATUS.toWord] } .RS [] rfl hr
  rw [wordRegs_encode] at hsinv
  calc core.run 4 _ = core.run 3 _ := run_succ 3 _ _ hwrite
    _ = core.run 2 _ := run_succ 2 _ _ hsinv
    _ = core.run 1 _ := run_succ 1 _ _ hstatus
    _ = core.run 0 _ := run_succ 0 _ _ hresult
    _ = _ := by
      simp only [Host.Core.run, State.observe, List.append_assoc, List.cons_append, List.nil_append]
      rfl

end Sys2Proof.Machine

open Sys2Proof Sys2Proof.Machine

/-- Settles O27. -/
theorem sinvSucceedsExactlyOnUnits : Obligations.SinvSucceedsExactlyOnUnits := by
  unfold Obligations.SinvSucceedsExactlyOnUnits
  refine fun s => ⟨fun hunit => ?unit, fun hnonunit => ?nonunit⟩
  case unit =>
    obtain ⟨x, hx, hpos, hle, hinv, huniq⟩ := exists_unique_scalarInverse hunit
    exact ⟨x, hpos, hle, hinv, huniq, exec_sinv_of_some s x hx⟩
  case nonunit => exact exec_sinv_of_none s ((scalarInverse_none _).mpr hnonunit)

/-- Settles O28: the search agrees with the table on the 26 residues. -/
theorem sinvEqualsLookupTable : Obligations.SinvEqualsLookupTable := by
  unfold Obligations.SinvEqualsLookupTable
  intro s
  obtain ⟨hresult, hfails⟩ := scalarInverse_eq_table s.regs.SA.toInt
  exact ⟨_, exec_eq .sinv s, (sinvRegs_RS s.regs).trans hresult, (sinvRegs_NOINV_iff s.regs).trans hfails⟩

/-- Settles O45: the run of the four accesses, with STATUS and RS as the search on the word leaves them. -/
theorem invsObservesInverse : Obligations.InvsObservesInverse := by
  unfold Obligations.InvsObservesInverse
  intro s a hr
  refine ⟨_, run_INVS s a hr, rfl, invsRegs_SA s a, fun hnonunit => ?nonunit, fun hunit => ?unit⟩
  case nonunit =>
    obtain ⟨hstatus, hresult⟩ := invsRegs_of_none s a ((scalarInverse_none _).mpr hnonunit)
    rw [hstatus, hresult]
  case unit =>
    obtain ⟨x, hx, -, hle, hinv, -⟩ := exists_unique_scalarInverse hunit
    obtain ⟨hstatus, hresult⟩ := invsRegs_of_some s a x hx
    exact ⟨x, hle, hinv, by rw [hstatus, hresult, bits32, BitVec.ofInt_natCast]⟩

end

section
/-! The matrix commands mod 26: DET's sign, MVMUL's residues, the inverse matrix, and what the results
depend on (41_matrix.md R76, R81, R82, R85, R88; 30_encoding.md R62). -/

namespace Sys2Proof.Machine

/-- R11: the truncating remainder by the sign of its argument. -/
theorem tmod_eq_by_sign (x : Int) :
    0 ≤ x ∧ Int.tmod x 26 = x % 26 ∨ x < 0 ∧ Int.tmod x 26 = -(-x % 26) := by
  obtain hnonneg | hneg := le_or_gt 0 x
  · exact .inl ⟨hnonneg, Int.tmod_eq_emod_of_nonneg hnonneg⟩
  · refine .inr ⟨hneg, ?_⟩
    rw [← Int.tmod_eq_emod_of_nonneg (show 0 ≤ -x by omega), Int.neg_tmod, neg_neg]

/-- R76: DET's result is negative exactly on a negative determinant that 26 does not divide. -/
theorem tmod_neg_iff (x : Int) : Int.tmod x 26 < 0 ↔ x < 0 ∧ ¬(26 ∣ x) := by
  obtain ⟨hsign, heq⟩ | ⟨hsign, heq⟩ := tmod_eq_by_sign x <;> rw [heq] <;> omega

/-- R75: DET's result, read back. -/
theorem detRegs_RS_toInt (r : Registers) : (detRegs r).RS.toInt = Int.tmod r.determinant 26 :=
  (toInt_bits32_of_small (detRem_range r.matrix)).trans (detRem_eq_tmod r.matrix)

/-- R85: MVMUL by its two row sums. -/
theorem exec_mvmul (s : State) :
    exec .mvmul s = .next { s with
      regs := { s.regs with
        RV0 := BitVec.ofInt 32
          (norm26 (s.regs.M00.toInt * s.regs.V0.toInt + s.regs.M01.toInt * s.regs.V1.toInt))
        RV1 := BitVec.ofInt 32
          (norm26 (s.regs.M10.toInt * s.regs.V0.toInt + s.regs.M11.toInt * s.regs.V1.toInt))
        STATUS := Status.success 4 } } :=
  exec_eq .mvmul s

/-- R14: the determinant's residue by those of the entries. -/
theorem cast_determinant (r : Registers) :
    (r.determinant : ZMod 26) = r.M00.toInt * r.M11.toInt - r.M01.toInt * r.M10.toInt := by
  rw [Registers.determinant]
  push_cast
  rfl

/-- R76: DET's result stands for the determinant. -/
theorem cast_detRegs_RS (r : Registers) : ((detRegs r).RS.toInt : ZMod 26) = r.determinant := by
  rw [detRegs_RS_toInt]
  exact cast_eq_of_dvd_sub Int.dvd_tmod_sub_self

/-- R82: MINV's result, copied to the operand, has the inverse of the operand's determinant as its own. -/
theorem cast_determinant_copyMatrix {s t : State} {c : Int} (ht : exec .minv s = .next t)
    (hc : scalarInverse s.regs.determinant = some c) (hinv : (s.regs.determinant : ZMod 26) * c = 1) :
    (t.copyMatrix.regs.determinant : ZMod 26) = c := by
  rw [exec_minv_of_some s c hc] at ht
  cases ht
  rw [cast_determinant] at hinv ⊢
  simp only [State.copyMatrix, toInt_ofInt_norm26, cast_emod]
  push_cast
  linear_combination (c : ZMod 26) * hinv

/-- Two matrices with the same residues, entry by entry. -/
def Mat2.SameResidues (K K' : Mat2) : Prop :=
  (K.k00 : ZMod 26) = K'.k00 ∧ (K.k01 : ZMod 26) = K'.k01 ∧
    (K.k10 : ZMod 26) = K'.k10 ∧ (K.k11 : ZMod 26) = K'.k11

/-- The determinant depends on the residues only. -/
theorem Mat2.SameResidues.cast_det {K K' : Mat2} (h : K.SameResidues K') :
    (K.det : ZMod 26) = K'.det := by
  obtain ⟨h00, h01, h10, h11⟩ := h
  simp only [Mat2.det]
  push_cast
  rw [h00, h01, h10, h11]

/-- R81: MINV's matrix depends on the residues only. -/
theorem Mat2.SameResidues.norm_scale_adj_eq {K K' : Mat2} (h : K.SameResidues K') (c : Int) :
    (K.adj.scale c).norm = (K'.adj.scale c).norm := by
  obtain ⟨h00, h01, h10, h11⟩ := h
  simp only [Mat2.norm, Mat2.scale, Mat2.adj, Mat2.mk.injEq]
  refine ⟨norm26_eq_of_cast_eq ?_, norm26_eq_of_cast_eq ?_, norm26_eq_of_cast_eq ?_,
    norm26_eq_of_cast_eq ?_⟩ <;> push_cast
  · rw [h11]
  · rw [h01]
  · rw [h10]
  · rw [h00]

/-- R81: `inverseKey` depends on the residues only. -/
theorem Mat2.SameResidues.inverse_eq {K K' : Mat2} (h : K.SameResidues K') : K.inverse = K'.inverse := by
  rw [Mat2.inverse, Mat2.inverse, scalarInverse_detRem, scalarInverse_detRem,
    scalarInverse_eq_of_cast_eq h.cast_det]
  simp only [h.norm_scale_adj_eq]

/-- R85, R87: MVMUL's product depends on the residues only. -/
theorem Mat2.SameResidues.mulVec_eq {K K' : Mat2} {v v' : Vec2} (h : K.SameResidues K')
    (h0 : (v.v0 : ZMod 26) = v'.v0) (h1 : (v.v1 : ZMod 26) = v'.v1) : K.mulVec v = K'.mulVec v' := by
  obtain ⟨h00, h01, h10, h11⟩ := h
  simp only [Mat2.mulVec, Vec2.mk.injEq]
  refine ⟨norm26_eq_of_cast_eq ?_, norm26_eq_of_cast_eq ?_⟩ <;> push_cast
  · rw [h00, h01, h0, h1]
  · rw [h10, h11, h0, h1]

section SameResults
variable {r r' : Registers} (h : r.SameResults r')
include h

/-- Records with the same results have them after the same write of STATUS. -/
theorem Registers.SameResults.setStatus (st : Status) :
    (r.setStatus st).SameResults (r'.setStatus st) :=
  ⟨rfl, h.2⟩

/-- Records with the same results have them after the same write of RS. -/
theorem Registers.SameResults.setScalarResult (v : Int) :
    (r.setScalarResult v).SameResults (r'.setScalarResult v) := by
  obtain ⟨hst, -, hrest⟩ := h
  exact ⟨hst, rfl, hrest⟩

/-- Records with the same results have them after the same write of RV. -/
theorem Registers.SameResults.setVectorResult (y : Vec2) :
    (r.setVectorResult y).SameResults (r'.setVectorResult y) := by
  obtain ⟨hst, hrs, -, -, hrest⟩ := h
  exact ⟨hst, hrs, rfl, rfl, hrest⟩

/-- Records with the same results have them after the same write of RM. -/
theorem Registers.SameResults.setMatrixResult (R : Mat2) :
    (r.setMatrixResult R).SameResults (r'.setMatrixResult R) := by
  obtain ⟨hst, hrs, hv0, hv1, -⟩ := h
  exact ⟨hst, hrs, hv0, hv1, rfl, rfl, rfl, rfl⟩

/-- R71, R74: SINV's results depend on what its search returns. -/
theorem Registers.SameResults.after_sinv (hsearch : scalarInverse r.scalar = scalarInverse r'.scalar) :
    (sinvRegs r).SameResults (sinvRegs r') := by
  cases hfound : scalarInverse r.scalar with
  | some c =>
    rw [sinvRegs_some r c hfound, sinvRegs_some r' c (hsearch ▸ hfound)]
    exact (h.setScalarResult c).setStatus _
  | none =>
    rw [sinvRegs_none r hfound, sinvRegs_none r' (hsearch ▸ hfound)]
    exact (h.setScalarResult 0).setStatus _

/-- R78, R80: MINV's results depend on what `inverseKey` returns. -/
theorem Registers.SameResults.after_minv (hinverse : r.matrix.inverse = r'.matrix.inverse) :
    (minvRegs r).SameResults (minvRegs r') := by
  unfold minvRegs
  rw [← hinverse]
  cases r.matrix.inverse with
  | some R => exact (h.setMatrixResult R).setStatus _
  | none => exact h.setStatus _

end SameResults

/-- R62: SINV's results depend on SA only. -/
theorem sinvRegs_results_eq {r r' : Registers} (h : r'.scalar = r.scalar) :
    (sinvRegs r').RS = (sinvRegs r).RS ∧ (sinvRegs r').STATUS = (sinvRegs r).STATUS := by
  unfold sinvRegs
  rw [h]
  cases scalarInverse r.scalar with
  | some c => exact ⟨rfl, rfl⟩
  | none => exact ⟨rfl, rfl⟩

/-- R62: DET's results depend on the matrix operand only. -/
theorem detRegs_results_eq {r r' : Registers} (h : r'.matrix = r.matrix) :
    (detRegs r').RS = (detRegs r).RS ∧ (detRegs r').STATUS = (detRegs r).STATUS := by
  unfold detRegs
  rw [h]
  exact ⟨rfl, rfl⟩

/-- R62: MINV's results depend on the matrix operand only, RM where it succeeds. -/
theorem minvRegs_results_eq {r r' : Registers} (h : r'.matrix = r.matrix) :
    (minvRegs r').STATUS = (minvRegs r).STATUS ∧
      ((minvRegs r).STATUS.OK = true →
        (minvRegs r').RM00 = (minvRegs r).RM00 ∧ (minvRegs r').RM01 = (minvRegs r).RM01 ∧
        (minvRegs r').RM10 = (minvRegs r).RM10 ∧ (minvRegs r').RM11 = (minvRegs r).RM11) := by
  unfold minvRegs
  rw [h]
  cases r.matrix.inverse with
  | some R => exact ⟨rfl, fun _ => ⟨rfl, rfl, rfl, rfl⟩⟩
  | none => exact ⟨rfl, fun hok => absurd hok Bool.false_ne_true⟩

/-- R62: MVMUL's results depend on the matrix and the vector operand only. -/
theorem mvmulRegs_results_eq {r r' : Registers} (h : r'.matrix = r.matrix) (hv : r'.vector = r.vector) :
    (mvmulRegs r').RV0 = (mvmulRegs r).RV0 ∧ (mvmulRegs r').RV1 = (mvmulRegs r).RV1 ∧
      (mvmulRegs r').STATUS = (mvmulRegs r).STATUS := by
  unfold mvmulRegs
  rw [h, hv]
  exact ⟨rfl, rfl, rfl⟩

end Sys2Proof.Machine

open Sys2Proof Sys2Proof.Machine

/-- Settles O30: the range, the sign and the residue of the truncating remainder. -/
theorem detRangeAndSign : Obligations.DetRangeAndSign := by
  unfold Obligations.DetRangeAndSign
  intro s
  refine ⟨_, exec_eq .det s, ?_⟩
  have hresult : (commandRegs .det s.regs).RS.toInt = Int.tmod s.regs.determinant 26 :=
    detRegs_RS_toInt s.regs
  have hrange := detRem_range s.regs.matrix
  rw [detRem_eq_tmod] at hrange
  rw [withRegs_regs, hresult]
  exact ⟨hrange.1, hrange.2, tmod_neg_iff _, Int.dvd_tmod_sub_self⟩

/-- Settles O37. -/
theorem mvmulResultsAreResidues : Obligations.MvmulResultsAreResidues := by
  unfold Obligations.MvmulResultsAreResidues
  intro s
  exact ⟨_, exec_mvmul s, toNat_ofInt_norm26 _, toNat_ofInt_norm26 _, toNat_ofInt_norm26_le _,
    toNat_ofInt_norm26_le _⟩

/-- Settles O33: each entry of the two products, in the ring of residues. -/
theorem minvIsTwoSidedInverse : Obligations.MinvIsTwoSidedInverse := by
  unfold Obligations.MinvIsTwoSidedInverse
  intro s hunit
  obtain ⟨c, hc, hinv⟩ := exists_scalarInverse_of_unit hunit
  rw [cast_determinant] at hinv
  refine ⟨_, exec_minv_of_some s c hc, rfl, ⟨toNat_ofInt_norm26_le _, toNat_ofInt_norm26_le _,
    toNat_ofInt_norm26_le _, toNat_ofInt_norm26_le _⟩, ?_⟩
  simp only [toInt_ofInt_norm26, emod_eq_one_iff_cast, emod_eq_zero_iff_cast]
  push_cast [cast_emod]
  refine ⟨?_, ?_, ?_, ?_, ?_, ?_, ?_, ?_⟩
  · linear_combination hinv
  · ring
  · ring
  · linear_combination hinv
  · linear_combination hinv
  · ring
  · ring
  · linear_combination hinv

/-- Settles O34: the second MINV scales by the inverse of the first one's factor. -/
theorem minvOfMinvReturnsResidues : Obligations.MinvOfMinvReturnsResidues := by
  unfold Obligations.MinvOfMinvReturnsResidues
  intro s hunit
  obtain ⟨c, hc, hinv⟩ := exists_scalarInverse_of_unit hunit
  have ht := exec_minv_of_some s c hc
  have hdet := cast_determinant_copyMatrix ht hc hinv
  have hunit' := gcd_eq_one_of_mul_cast (y := s.regs.determinant) (by rw [hdet, mul_comm, hinv])
  obtain ⟨d, hd, hinv'⟩ := exists_scalarInverse_of_unit hunit'
  rw [hdet] at hinv'
  refine ⟨_, _, ht, exec_minv_of_some _ d hd, rfl, ?_⟩
  simp only [State.copyMatrix, toNat_ofInt_norm26, toInt_ofInt_norm26, emod_eq_emod_iff_cast]
  push_cast [cast_emod]
  refine ⟨?_, ?_, ?_, ?_⟩
  · linear_combination (s.regs.M00.toInt : ZMod 26) * hinv'
  · linear_combination (s.regs.M01.toInt : ZMod 26) * hinv'
  · linear_combination (s.regs.M10.toInt : ZMod 26) * hinv'
  · linear_combination (s.regs.M11.toInt : ZMod 26) * hinv'

/-- Settles O35: the second product undoes the first one mod 26, as the adjugate times the matrix is the
determinant. -/
theorem encryptThenDecryptReturnsResidues : Obligations.EncryptThenDecryptReturnsResidues := by
  unfold Obligations.EncryptThenDecryptReturnsResidues
  intro s hunit
  obtain ⟨c, hc, hinv⟩ := exists_scalarInverse_of_unit hunit
  rw [cast_determinant] at hinv
  refine ⟨_, _, _, exec_minv_of_some s c hc, exec_mvmul _, exec_mvmul _, ?_⟩
  simp only [State.copyMatrix, State.copyVector, toNat_ofInt_norm26, toInt_ofInt_norm26,
    emod_eq_emod_iff_cast]
  push_cast [cast_emod]
  constructor
  · linear_combination (s.regs.V0.toInt : ZMod 26) * hinv
  · linear_combination (s.regs.V1.toInt : ZMod 26) * hinv

/-- Settles O38: the products entry by entry, and associativity of the exact sums mod 26. -/
theorem twoMvmulsMultiplyMatrices : Obligations.TwoMvmulsMultiplyMatrices := by
  unfold Obligations.TwoMvmulsMultiplyMatrices
  intro s b00 b01 b10 b11 v0 v1
  refine ⟨_, _, _, _, _, exec_mvmul _, exec_mvmul _, ?_, exec_mvmul _, exec_mvmul _, exec_mvmul _, ?_, ?_⟩
  · simp only [Mat2.mul, toInt_ofInt_norm26, ← norm26_eq_emod]
    rfl
  all_goals
    refine congrArg (BitVec.ofInt 32) (norm26_eq_of_cast_eq ?_)
    simp only [toInt_ofInt_norm26]
    push_cast [cast_emod]
    ring

/-- Settles O41, command by command. -/
theorem commandsReadOnlyTheirOperands : Obligations.CommandsReadOnlyTheirOperands := by
  unfold Obligations.CommandsReadOnlyTheirOperands
  intro s s'
  refine ⟨fun hsa => ?sinv, fun h00 h01 h10 h11 => ?matrix⟩
  case sinv =>
    exact ⟨_, _, exec_eq .sinv s, exec_eq .sinv s', sinvRegs_results_eq (congrArg sint32 hsa)⟩
  case matrix =>
    have hmatrix : s'.regs.matrix = s.regs.matrix := by
      simp only [Registers.matrix, h00, h01, h10, h11]
    refine ⟨⟨_, _, exec_eq .det s, exec_eq .det s', detRegs_results_eq hmatrix⟩,
      ⟨_, _, exec_eq .minv s, exec_eq .minv s', minvRegs_results_eq hmatrix⟩, fun hv0 hv1 => ?vector⟩
    have hvector : s'.regs.vector = s.regs.vector := by simp only [Registers.vector, hv0, hv1]
    exact ⟨_, _, exec_eq .mvmul s, exec_eq .mvmul s', mvmulRegs_results_eq hmatrix hvector⟩

/-- Settles O42: the searches and the products depend on the residues only. -/
theorem resultsDependOnlyOnResidues : Obligations.ResultsDependOnlyOnResidues := by
  unfold Obligations.ResultsDependOnlyOnResidues
  intro s s' h h00 h01 h10 h11 hv0 hv1 hsa
  have hmatrix : s'.regs.matrix.SameResidues s.regs.matrix :=
    ⟨cast_eq_of_dvd_sub h00, cast_eq_of_dvd_sub h01, cast_eq_of_dvd_sub h10, cast_eq_of_dvd_sub h11⟩
  refine ⟨fun i hi => ⟨_, _, exec_eq i s, exec_eq i s', ?_⟩, _, _, exec_eq .det s, exec_eq .det s', ?_⟩
  · cases i with
    | nop => exact h.setStatus _
    | sinv => exact h.after_sinv (scalarInverse_eq_of_cast_eq (cast_eq_of_dvd_sub hsa)).symm
    | det => exact absurd rfl hi
    | minv => exact h.after_minv hmatrix.inverse_eq.symm
    | mvmul =>
      have hproduct := hmatrix.mulVec_eq (v := s'.regs.vector) (v' := s.regs.vector)
        (cast_eq_of_dvd_sub hv0) (cast_eq_of_dvd_sub hv1)
      simp only [withRegs_regs, commandRegs, mvmulRegs, hproduct]
      exact (h.setVectorResult _).setStatus _
  · refine (ZMod.intCast_eq_intCast_iff_dvd_sub _ _ 26).mp ?_
    exact (cast_detRegs_RS s.regs).trans (hmatrix.cast_det.symm.trans (cast_detRegs_RS s'.regs).symm)

end

section
/-! The reset input and power by their steps, the commands straight after reset, an access outside the
window, and the lines of a host program that are no access (70_reset_and_hazards.md R109, R112;
60_exceptions.md R95, R108; 20_memory.md R55; 30_encoding.md R68). -/

namespace Sys2Proof.Machine

/-- R108: one step on a power cycle. -/
theorem step_powerCycle (s : State) (rest : List HostEvent) :
    step { s with pending := .powerCycle :: rest } = .next (State.powerCycle { s with pending := rest }) :=
  step_cons _ .powerCycle rest rfl

/-- R112: the operand registers hold 0 after reset, which has no inverse. -/
theorem scalarInverse_zero : scalarInverse 0 = none := by decide

/-- R42: an access that starts outside the window's 128 bytes has no offset in the window. -/
theorem windowOffset_of_outside (a : Access) (h : a.off < 0 ∨ 128 ≤ a.off) : a.windowOffset = none := by
  unfold Access.windowOffset Config.windowBytes
  exact if_neg (by omega)

/-- R55: the window is aligned to its 128 bytes. -/
theorem BASE_mod_128 : Config.BASE % 128 = 0 := Nat.mul_mod_left _ _

/-- R55: the address BASE + off is offset off. -/
theorem offsetOfAddress_BASE_add (off : Nat) : offsetOfAddress (Config.BASE + off) = off := by
  rw [offsetOfAddress]
  omega

/-- R68: an IF line that finds its label. -/
theorem hostLine_ifGoto (program : List HostLine) (h : HostRun) (f : StatusField) (n k : Nat)
    (target : String) (w : Word) (hlast : h.lastStatus = some w)
    (hlabel : findLabel program target = some k) :
    hostLine program (.ifGoto f n target) h =
      .next { h with line := if f.of w = n then k else h.line + 1 } := by
  simp only [hostLine, hlast, hlabel]
  by_cases hfield : f.of w = n
  · rw [if_pos hfield, if_pos hfield]
  · rw [if_neg hfield, if_neg hfield]

end Sys2Proof.Machine

open Sys2Proof Sys2Proof.Machine

/-- Settles O2: from reset SINV and MINV search for an inverse of 0, and DET and MVMUL sum products of 0. -/
theorem commandsStraightAfterReset : Obligations.CommandsStraightAfterReset := by
  unfold Obligations.CommandsStraightAfterReset
  refine ⟨exec_sinv_of_none _ scalarInverse_zero, ?det, exec_minv_of_none _ scalarInverse_zero, ?mvmul⟩
  case det => rw [exec_eq]; rfl
  case mvmul => rw [exec_mvmul]; rfl

/-- Settles O3, event by event. -/
theorem resetInputSetsEveryRegister : Obligations.ResetInputSetsEveryRegister := by
  unfold Obligations.ResetInputSetsEveryRegister
  intro s rest
  refine ⟨step_driveReset s true rest, fun hr => ?released, fun hr => ?unchanged,
    step_powerCycle s rest, step_idle _ rfl⟩
  case released => rw [step_driveReset, driveReset_false_of_asserted _ (by exact hr)]
  case unchanged => rw [step_driveReset, driveReset_false_of_released _ (by exact hr)]

/-- Settles O11. -/
theorem windowPlacement : Obligations.WindowPlacement := by
  unfold Obligations.WindowPlacement
  refine ⟨BASE_mod_128, offsetOfAddress_BASE_add, fun s a rest hout => ?_⟩
  rw [step_access_eq, performAccess_outside a _ (windowOffset_of_outside a hout)]

/-- Settles O46. -/
theorem branchLinesAreNoAccess : Obligations.BranchLinesAreNoAccess := by
  unfold Obligations.BranchLinesAreNoAccess
  exact fun program h f n k target w => ⟨rfl, hostLine_ifGoto program h f n k target w⟩

end
